-- ==== Sys2Proof/Word.lean ====
section
/-! DEFINITION. The words of the machine: the widths that the spec gives its values
(00_scope.md R6, 10_state.md R20). Bit 0 is the least significant bit (R11). -/

namespace Sys2Proof

/-- A byte: a general register, a memory cell, a timer (R6). -/
abbrev Byte := BitVec 8

/-- A 16-bit value: the index register, the program counter, a stack slot, an instruction word (R6). -/
abbrev Word := BitVec 16

/-- A memory address, 0x000 to 0xFFF (20_memory.md R50). -/
abbrev Addr := BitVec 12

/-- A register index, key index, stack index or step count: four bits, so always in range (R21, R26, R29). -/
abbrev Nibble := BitVec 4

/-- A display coordinate, 0 to 63 (10_state.md R30). -/
abbrev Coord := BitVec 6

end Sys2Proof
end

