-- ==== Sys2Proof/Syntax.lean ====
section
/-! DEFINITION. The instructions: one constructor for each row of spec/opcode_table.json, the 34 patterns of
30_encoding.md R75 in its order and the default UNKNOWN (R74, R97). Operand fields have exactly the widths of R71. -/

namespace Sys2Proof

/-- An instruction. `x`, `y` are register indices, `n` a sprite height, `kk` an immediate byte, `nnn` an
address operand (R71); `unknown` carries the word that matched no pattern (R97). -/
inductive Instr where
  /-- 00E0 `CLS` (44_display.md R150). -/
  | cls
  /-- 00EE `RET` (41_control_flow.md R110). -/
  | ret
  /-- 1nnn `JP nnn` (R111). -/
  | jp (nnn : Addr)
  /-- 2nnn `CALL nnn` (R112). -/
  | call (nnn : Addr)
  /-- 3xkk `SE Vx, kk` (R114). -/
  | seImm (x : Nibble) (kk : Byte)
  /-- 4xkk `SNE Vx, kk` (R115). -/
  | sneImm (x : Nibble) (kk : Byte)
  /-- 5xy0 `SE Vx, Vy` (R116). -/
  | seReg (x y : Nibble)
  /-- 6xkk `LD Vx, kk` (42_load_alu.md R120). -/
  | ldImm (x : Nibble) (kk : Byte)
  /-- 7xkk `ADD Vx, kk` (R121). -/
  | addImm (x : Nibble) (kk : Byte)
  /-- 8xy0 `LD Vx, Vy` (R122). -/
  | ldReg (x y : Nibble)
  /-- 8xy1 `OR Vx, Vy` (R123). -/
  | or (x y : Nibble)
  /-- 8xy2 `AND Vx, Vy` (R124). -/
  | and (x y : Nibble)
  /-- 8xy3 `XOR Vx, Vy` (R125). -/
  | xor (x y : Nibble)
  /-- 8xy4 `ADD Vx, Vy` (R126). -/
  | addReg (x y : Nibble)
  /-- 8xy5 `SUB Vx, Vy` (R127). -/
  | sub (x y : Nibble)
  /-- 8xy6 `SHR Vx`; `y` is decoded and ignored (R128). -/
  | shr (x y : Nibble)
  /-- 8xy7 `SUBN Vx, Vy` (R129). -/
  | subn (x y : Nibble)
  /-- 8xyE `SHL Vx`; `y` is decoded and ignored (R130). -/
  | shl (x y : Nibble)
  /-- 9xy0 `SNE Vx, Vy` (41_control_flow.md R117). -/
  | sneReg (x y : Nibble)
  /-- Annn `LD I, nnn` (43_index_memory.md R140). -/
  | ldI (nnn : Addr)
  /-- Bnnn `JP V0, nnn` (41_control_flow.md R113). -/
  | jpV0 (nnn : Addr)
  /-- Cxkk `RND Vx, kk` (42_load_alu.md R131). -/
  | rnd (x : Nibble) (kk : Byte)
  /-- Dxyn `DRW Vx, Vy, n` (44_display.md R151). -/
  | drw (x y n : Nibble)
  /-- Ex9E `SKP Vx` (45_keypad_timers.md R160). -/
  | skp (x : Nibble)
  /-- ExA1 `SKNP Vx` (R161). -/
  | sknp (x : Nibble)
  /-- Fx07 `LD Vx, DT` (R162). -/
  | ldVxDt (x : Nibble)
  /-- Fx0A `LD Vx, K` (R165). -/
  | ldVxK (x : Nibble)
  /-- Fx15 `LD DT, Vx` (R163). -/
  | ldDtVx (x : Nibble)
  /-- Fx18 `LD ST, Vx` (R164). -/
  | ldStVx (x : Nibble)
  /-- Fx1E `ADD I, Vx` (43_index_memory.md R141). -/
  | addI (x : Nibble)
  /-- Fx29 `LD F, Vx` (R142). -/
  | ldF (x : Nibble)
  /-- Fx33 `LD B, Vx` (R143). -/
  | ldB (x : Nibble)
  /-- Fx55 `LD [I], Vx` (R144). -/
  | ldMemVx (x : Nibble)
  /-- Fx65 `LD Vx, [I]` (R145). -/
  | ldVxMem (x : Nibble)
  /-- UNKNOWN, every word that matches no pattern above (40_step_cycle.md R97). -/
  | unknown (w : Word)
deriving DecidableEq, Repr

end Sys2Proof
end

