-- ==== Sys2Proof/WellFormed.lean ====
section
/-! DEFINITION. Which terms of Instr stand for an instruction. Every operand value is legal in every pattern
that has the field (30_encoding.md R78), and the operand types have the fields' widths (R71), so the one check is
that UNKNOWN's word is in the unknown space of R77. -/

namespace Sys2Proof

/-- The words that match no pattern of R75, written from R77's table of the unknown space:
0nnn but for 00E0 and 00EE, 5xyN and 9xyN with N not 0, 8xyN with N in 8, 9, A, B, C, D, F, and Exkk and Fxkk
with a low byte that no pattern has. -/
def unknownWord (w : Word) : Bool :=
  let major := w.toNat / 0x1000
  let low4 := w.toNat % 0x10
  let low8 := w.toNat % 0x100
  (major == 0x0 && w != 0x00E0 && w != 0x00EE) ||
  (major == 0x5 && low4 != 0) ||
  (major == 0x8 && [0x8, 0x9, 0xA, 0xB, 0xC, 0xD, 0xF].contains low4) ||
  (major == 0x9 && low4 != 0) ||
  (major == 0xE && !([0x9E, 0xA1].contains low8)) ||
  (major == 0xF && !([0x07, 0x0A, 0x15, 0x18, 0x1E, 0x29, 0x33, 0x55, 0x65].contains low8))

/-- A term is an instruction: UNKNOWN only with a word of the unknown space (R77), everything else always (R78). -/
def Instr.wellFormed : Instr → Bool
  | .unknown w => unknownWord w
  | .cls | .ret | .jp _ | .call _ | .seImm _ _ | .sneImm _ _ | .seReg _ _ | .ldImm _ _ | .addImm _ _
  | .ldReg _ _ | .or _ _ | .and _ _ | .xor _ _ | .addReg _ _ | .sub _ _ | .shr _ _ | .subn _ _ | .shl _ _
  | .sneReg _ _ | .ldI _ | .jpV0 _ | .rnd _ _ | .drw _ _ _ | .skp _ | .sknp _ | .ldVxDt _ | .ldVxK _
  | .ldDtVx _ | .ldStVx _ | .addI _ | .ldF _ | .ldB _ | .ldMemVx _ | .ldVxMem _ => true

end Sys2Proof
end

