-- ==== Sys2Proof/Decode.lean ====
section
/-! DEFINITION. The decoder, written from the 4-tuples of 30_encoding.md R75; after it the opcode map of R75 in
mask-and-match form, and the encoder of R81. Decoding never refuses a word: a word that matches no pattern is
UNKNOWN (R74). Bytes are refused by name only where fewer than two are given. -/

namespace Sys2Proof

/-! ### The fields of a word (R71) -/

/-- `op1`, bits 15:12. -/
def op1 (w : Word) : Nibble := w.extractLsb' 12 4
/-- `x` (`op2`), bits 11:8. -/
def fieldX (w : Word) : Nibble := w.extractLsb' 8 4
/-- `y` (`op3`), bits 7:4. -/
def fieldY (w : Word) : Nibble := w.extractLsb' 4 4
/-- `n` (`op4`), bits 3:0. -/
def fieldN (w : Word) : Nibble := w.extractLsb' 0 4
/-- `kk`, bits 7:0. -/
def fieldKk (w : Word) : Byte := w.extractLsb' 0 8
/-- `nnn`, bits 11:0. -/
def fieldNnn (w : Word) : Addr := w.extractLsb' 0 12

/-! ### The decoder -/

/-- The 8xy family, by `op4` (R76; the numbers but 0, 4 and E are the spec's choice D6, log entry 10). -/
def decodeAlu (w : Word) : Instr :=
  match (fieldN w).toNat with
  | 0x0 => .ldReg (fieldX w) (fieldY w)
  | 0x1 => .or (fieldX w) (fieldY w)
  | 0x2 => .and (fieldX w) (fieldY w)
  | 0x3 => .xor (fieldX w) (fieldY w)
  | 0x4 => .addReg (fieldX w) (fieldY w)
  | 0x5 => .sub (fieldX w) (fieldY w)
  | 0x6 => .shr (fieldX w) (fieldY w)
  | 0x7 => .subn (fieldX w) (fieldY w)
  | 0xE => .shl (fieldX w) (fieldY w)
  | _ => .unknown w

/-- The Ex family, by the low byte (R75). -/
def decodeKey (w : Word) : Instr :=
  match (fieldKk w).toNat with
  | 0x9E => .skp (fieldX w)
  | 0xA1 => .sknp (fieldX w)
  | _ => .unknown w

/-- The Fx family, by the low byte (R75). -/
def decodeMisc (w : Word) : Instr :=
  match (fieldKk w).toNat with
  | 0x07 => .ldVxDt (fieldX w)
  | 0x0A => .ldVxK (fieldX w)
  | 0x15 => .ldDtVx (fieldX w)
  | 0x18 => .ldStVx (fieldX w)
  | 0x1E => .addI (fieldX w)
  | 0x29 => .ldF (fieldX w)
  | 0x33 => .ldB (fieldX w)
  | 0x55 => .ldMemVx (fieldX w)
  | 0x65 => .ldVxMem (fieldX w)
  | _ => .unknown w

/-- The 0nnn words: 00E0 and 00EE exactly; all others are unknown (R75, R77, C3, C4). -/
def decodeExact (w : Word) : Instr :=
  if w = 0x00E0 then .cls else if w = 0x00EE then .ret else .unknown w

/-- The instruction a word selects (R74, R75): total on all 65536 words. -/
def decode (w : Word) : Instr :=
  match (op1 w).toNat with
  | 0x0 => decodeExact w
  | 0x1 => .jp (fieldNnn w)
  | 0x2 => .call (fieldNnn w)
  | 0x3 => .seImm (fieldX w) (fieldKk w)
  | 0x4 => .sneImm (fieldX w) (fieldKk w)
  | 0x5 => if fieldN w = 0 then .seReg (fieldX w) (fieldY w) else .unknown w
  | 0x6 => .ldImm (fieldX w) (fieldKk w)
  | 0x7 => .addImm (fieldX w) (fieldKk w)
  | 0x8 => decodeAlu w
  | 0x9 => if fieldN w = 0 then .sneReg (fieldX w) (fieldY w) else .unknown w
  | 0xA => .ldI (fieldNnn w)
  | 0xB => .jpV0 (fieldNnn w)
  | 0xC => .rnd (fieldX w) (fieldKk w)
  | 0xD => .drw (fieldX w) (fieldY w) (fieldN w)
  | 0xE => decodeKey w
  | _ => decodeMisc w

/-! ### From bytes -/

/-- Why bytes are not an instruction: fewer than the two bytes of R70. -/
inductive DecodeError where
  /-- There are not two bytes (R70). Raised by decodeBytes alone; safe, since a fetch always has two. -/
  | truncated
deriving DecidableEq, Repr

/-- The word of two bytes: the byte at the lower address is the high one (20_memory.md R56). -/
def wordOfBytes (hi lo : Byte) : Word := hi ++ lo

/-- The two bytes of a word in memory order: high byte first (R81). -/
def bytesOfWord (w : Word) : List Byte := [w.extractLsb' 8 8, w.extractLsb' 0 8]

/-- Decode the instruction at the head of a byte sequence and give the rest (R70). -/
def decodeBytes : List Byte → Except DecodeError (Instr × List Byte)
  | hi :: lo :: rest => .ok (decode (wordOfBytes hi lo), rest)
  | _ => .error .truncated

/-- The instruction the decoder reads from the `nbits` low bits of `w`, all higher bits zero, laid out as the
hardware stores them. Every instruction has 16 bits (R70), so a longer row is no instruction here. -/
def decodeTableWord (nbits w : Nat) : Option Instr :=
  if nbits ≤ 16 then
    match decodeBytes (bytesOfWord (BitVec.ofNat 16 (w % 2 ^ nbits))) with
    | .ok (i, _) => some i
    | .error _ => none
  else none

/-! ### The opcode map (R75) -/

/-- R75's mask and match, row by row in its order: a word `w` selects the row iff `w &&& mask = match`. -/
def opcodeMap : List (Word × Word) :=
  [(0xFFFF, 0x00E0), (0xFFFF, 0x00EE), (0xF000, 0x1000), (0xF000, 0x2000), (0xF000, 0x3000),
   (0xF000, 0x4000), (0xF00F, 0x5000), (0xF000, 0x6000), (0xF000, 0x7000)] ++
  [(0xF00F, 0x8000), (0xF00F, 0x8001), (0xF00F, 0x8002), (0xF00F, 0x8003), (0xF00F, 0x8004),
   (0xF00F, 0x8005), (0xF00F, 0x8006), (0xF00F, 0x8007), (0xF00F, 0x800E)] ++
  [(0xF00F, 0x9000), (0xF000, 0xA000), (0xF000, 0xB000), (0xF000, 0xC000), (0xF000, 0xD000)] ++
  [(0xF0FF, 0xE09E), (0xF0FF, 0xE0A1)] ++
  [(0xF0FF, 0xF007), (0xF0FF, 0xF00A), (0xF0FF, 0xF015), (0xF0FF, 0xF018), (0xF0FF, 0xF01E),
   (0xF0FF, 0xF029), (0xF0FF, 0xF033), (0xF0FF, 0xF055), (0xF0FF, 0xF065)]

/-- An instruction's row of opcodeMap, counted from 0; UNKNOWN, which has no pattern, comes after the last. -/
def Instr.row : Instr → Nat
  | .cls => 0 | .ret => 1 | .jp _ => 2 | .call _ => 3 | .seImm _ _ => 4 | .sneImm _ _ => 5 | .seReg _ _ => 6
  | .ldImm _ _ => 7 | .addImm _ _ => 8 | .ldReg _ _ => 9 | .or _ _ => 10 | .and _ _ => 11 | .xor _ _ => 12
  | .addReg _ _ => 13 | .sub _ _ => 14 | .shr _ _ => 15 | .subn _ _ => 16 | .shl _ _ => 17 | .sneReg _ _ => 18
  | .ldI _ => 19 | .jpV0 _ => 20 | .rnd _ _ => 21 | .drw _ _ _ => 22 | .skp _ => 23 | .sknp _ => 24
  | .ldVxDt _ => 25 | .ldVxK _ => 26 | .ldDtVx _ => 27 | .ldStVx _ => 28 | .addI _ => 29 | .ldF _ => 30
  | .ldB _ => 31 | .ldMemVx _ => 32 | .ldVxMem _ => 33 | .unknown _ => 34

/-! ### The encoder (R81) -/

/-- Format NNN: a fixed nibble and the address operand (R72). -/
def encodeNnn (op : Nibble) (nnn : Addr) : Word := op ++ nnn
/-- Format XKK: a fixed nibble, a register and an immediate byte (R72). -/
def encodeXkk (op x : Nibble) (kk : Byte) : Word := op ++ x ++ kk
/-- Formats XY and XYN: a fixed nibble, two registers and a last nibble (R72). -/
def encodeXyn (op x y n : Nibble) : Word := op ++ x ++ y ++ n

/-- The word of an instruction (R81). -/
def encode : Instr → Word
  | .cls => 0x00E0
  | .ret => 0x00EE
  | .jp nnn => encodeNnn 0x1 nnn
  | .call nnn => encodeNnn 0x2 nnn
  | .seImm x kk => encodeXkk 0x3 x kk
  | .sneImm x kk => encodeXkk 0x4 x kk
  | .seReg x y => encodeXyn 0x5 x y 0x0
  | .ldImm x kk => encodeXkk 0x6 x kk
  | .addImm x kk => encodeXkk 0x7 x kk
  | .ldReg x y => encodeXyn 0x8 x y 0x0
  | .or x y => encodeXyn 0x8 x y 0x1
  | .and x y => encodeXyn 0x8 x y 0x2
  | .xor x y => encodeXyn 0x8 x y 0x3
  | .addReg x y => encodeXyn 0x8 x y 0x4
  | .sub x y => encodeXyn 0x8 x y 0x5
  | .shr x y => encodeXyn 0x8 x y 0x6
  | .subn x y => encodeXyn 0x8 x y 0x7
  | .shl x y => encodeXyn 0x8 x y 0xE
  | .sneReg x y => encodeXyn 0x9 x y 0x0
  | .ldI nnn => encodeNnn 0xA nnn
  | .jpV0 nnn => encodeNnn 0xB nnn
  | .rnd x kk => encodeXkk 0xC x kk
  | .drw x y n => encodeXyn 0xD x y n
  | .skp x => encodeXkk 0xE x 0x9E
  | .sknp x => encodeXkk 0xE x 0xA1
  | .ldVxDt x => encodeXkk 0xF x 0x07
  | .ldVxK x => encodeXkk 0xF x 0x0A
  | .ldDtVx x => encodeXkk 0xF x 0x15
  | .ldStVx x => encodeXkk 0xF x 0x18
  | .addI x => encodeXkk 0xF x 0x1E
  | .ldF x => encodeXkk 0xF x 0x29
  | .ldB x => encodeXkk 0xF x 0x33
  | .ldMemVx x => encodeXkk 0xF x 0x55
  | .ldVxMem x => encodeXkk 0xF x 0x65
  | .unknown w => w

/-- The bytes of an instruction as they lie in memory: high byte first (R81). -/
def encodeBytes (i : Instr) : List Byte := bytesOfWord (encode i)

end Sys2Proof
end

