-- ==== Sys2Proof/Config.lean ====
section
/-! DEFINITION. What an implementation fixes and what the spec leaves free: the three open parameters of
00_scope.md R7 with their defaults, and the free bytes that stand for the input `rand` (10_state.md R35). -/

namespace Sys2Proof.Config

/-- The glyph table, `GLYPH[0..79]` (20_memory.md R53). -/
abbrev Glyph := Vector Byte 80

/-- The open parameters of the hardware (00_scope.md R7) and one switch of the model's own.
They are fixed for one machine: no step writes them. -/
structure Params where
  /-- `GLYPH`: what memory 0x000 to 0x04F holds after reset (R53, D10). -/
  glyph : Glyph
  /-- `KEYWAIT_BLOCKING`: whether Fx0A suspends the machine (R165, D12). -/
  keywaitBlocking : Bool
  /-- `SKNP_NEGATED`: whether ExA1 skips when the key is NOT pressed (R161, D13). -/
  sknpNegated : Bool
  /-- Whether the optional events of 60_exceptions.md R174 are emitted.
  DESIGN CHOICE, safe: claims hold for both values (log entry 4). -/
  optionalEvents : Bool
deriving DecidableEq, Repr

/-- The glyphs `0` to `7` of the default font (R53's table, left half). -/
def fontLow : List Byte :=
  [0xF0, 0x90, 0x90, 0x90, 0xF0,  0x20, 0x60, 0x20, 0x20, 0x70,
   0xF0, 0x10, 0xF0, 0x80, 0xF0,  0xF0, 0x10, 0xF0, 0x10, 0xF0,
   0x90, 0x90, 0xF0, 0x10, 0x10,  0xF0, 0x80, 0xF0, 0x10, 0xF0,
   0xF0, 0x80, 0xF0, 0x90, 0xF0,  0xF0, 0x10, 0x20, 0x40, 0x40]

/-- The glyphs `8` to `F` of the default font (R53's table, right half). -/
def fontHigh : List Byte :=
  [0xF0, 0x90, 0xF0, 0x90, 0xF0,  0xF0, 0x90, 0xF0, 0x10, 0xF0,
   0xF0, 0x90, 0xF0, 0x90, 0x90,  0xE0, 0x90, 0xE0, 0x90, 0xE0,
   0xF0, 0x80, 0x80, 0x80, 0xF0,  0xE0, 0x90, 0x90, 0x90, 0xE0,
   0xF0, 0x80, 0xF0, 0x80, 0xF0,  0xF0, 0x80, 0xF0, 0x80, 0x80]

/-- The default of `GLYPH` (R53): a default of the spec, not the source's bytes (N1).
Unsafe to rest a claim on: name `GLYPH` as a premise (log entry 1). -/
def defaultGlyph : Glyph := ⟨(fontLow ++ fontHigh).toArray, rfl⟩

/-- The defaults of R7: the conventional font, the recorded no-op Fx0A, the recorded ExA1. -/
def defaultParams : Params :=
  { glyph := defaultGlyph, keywaitBlocking := false, sknpNegated := false, optionalEvents := true }

/-- The free bytes of the input `rand` (R35, D17): what the host presents at the `n`-th executed step where
the state lists no byte. No body: nothing can be proved of any of them (log entry 2). -/
opaque freeRand : Nat → Byte

end Sys2Proof.Config
end

