-- ==== Sys2Proof/Machine/State.lean ====
section
/-! DEFINITION. The state of the core, the record of 10_state.md R20, as plain data; the fault causes of
60_exceptions.md R170; and the state after reset (R39). Behind the spec's twelve pieces of state stand four fields
of the model's own, for the spec's parameters, its input `rand`, and its event output. -/

namespace Sys2Proof.Machine

/-- The fatal conditions (60_exceptions.md R170), each with its recorded info. The machine takes a fault as the
spec says it is entered (R177): a NEXT state whose `run` is `faulted`. So a step never ends in Host.Outcome.fault,
and this one type serves both places (log entry 5). Safe: a faulted run proves nothing further. -/
inductive Fault where
  /-- Action 1 of a step with `PC >= 4095` (R171). Raised by step. Safe. -/
  | fetchOutOfRange (pc : Word)
  /-- The host's load of an image of more than 3584 bytes (R172). Raised by State.hostLoad. Safe. -/
  | loadOverflow (len : Nat)
  /-- Ex9E or ExA1 with `vx > 15` (R173, R167). Raised by execSkp and execSknp. Safe (D11). -/
  | keyIndexOutOfRange (vx : Byte)
deriving DecidableEq, Repr

/-- Why an instruction would have no meaning. Every instruction has one, so nothing raises this. -/
inductive Refusal where
  /-- An arm of exec without a meaning. Raised by no arm. Safe. -/
  | notModelled (mnemonic : String)
deriving DecidableEq, Repr

/-- The run state `RUN` (R33). -/
inductive RunState where
  /-- The next step fetches and executes an instruction. -/
  | running
  /-- A fatal condition has occurred; only reset leaves it (R178). -/
  | faulted (cause : Fault)
  /-- Suspended in Fx0A until a key is down, which goes to register `t` (R165, R166). -/
  | awaitingKey (t : Nibble)
deriving DecidableEq, Repr

/-- The events a step can emit (60_exceptions.md R174). -/
inductive Event where
  /-- A word that matches no pattern was executed: the address it was fetched from, and the word (R97). -/
  | unknownOpcode (addr word : Word)
  /-- A Dxyn handler ran (optional, R174). -/
  | drawInvoked
  /-- Action 6 decremented the delay timer (optional, R174). -/
  | timerTick
deriving DecidableEq, Repr

/-- One row of the display: 64 pixels, column 0 first (R30). -/
abbrev Row := Vector Bool 64

/-- The machine's state. The first twelve fields are R20's record; the last four are the model's own. -/
structure State where
  /-- `V[0..15]` (R21); `V[15]` is the flag register (R22). -/
  v : Vector Byte 16
  /-- `I`, the index register (R23). -/
  i : Word
  /-- `PC`, the program counter (R24). -/
  pc : Word
  /-- `STACK[0..15]` (R25). -/
  stack : Vector Word 16
  /-- `SP` (R26): the slot most recently written. -/
  sp : Nibble
  /-- `DT`, the delay timer (R27). -/
  dt : Byte
  /-- `ST`, the sound timer (R28). -/
  st : Byte
  /-- `SC`, the step counter (R29). -/
  sc : Nibble
  /-- `DISP[0..63][0..63]`, row-major (R30). -/
  disp : Vector Row 64
  /-- `MEM[0..4095]` (R31): the bytes that differ from their reset contents, addresses strictly rising. -/
  mem : List Host.Cell
  /-- `KEY[0..15]` (R32), written by the host alone. -/
  key : Vector Bool 16
  /-- `RUN` (R33). -/
  run : RunState
  /-- The machine's parameters (00_scope.md R7); no step writes them (log entry 1). -/
  params : Config.Params
  /-- The byte the host presents at `rand` for the next step (R35); none where it is left free (log entry 2). -/
  rand : Option Byte
  /-- How many steps have executed an instruction: indexes the free bytes of `rand` (log entry 2). -/
  draws : Nat
  /-- The events emitted and not yet consumed by the host, oldest first (R174, log entry 3). -/
  events : List Event
deriving DecidableEq, Repr

/-- The state after reset of a machine with the given parameters (R39, R190): everything zero or false but
`PC` = 0x200 and `RUN` = `Running`. Memory lists nothing: it holds its reset contents. -/
def State.resetWith (p : Config.Params) : State where
  v := Vector.replicate 16 0
  i := 0
  pc := 0x200
  stack := Vector.replicate 16 0
  sp := 0
  dt := 0
  st := 0
  sc := 0
  disp := Vector.replicate 64 (Vector.replicate 64 false)
  mem := []
  key := Vector.replicate 16 false
  run := .running
  params := p
  rand := none
  draws := 0
  events := []

/-- The state after reset with the default parameters of R7. -/
def State.reset : State := State.resetWith Config.defaultParams

end Sys2Proof.Machine
end

