-- ==== Sys2Proof/Machine/Ops.lean ====
section
/-! DEFINITION. The named operations over memory, registers, the call stack, the display, the keypad and the run
state. Every read and write of a meaning goes through one of them. -/

namespace Sys2Proof.Machine

/-! ### Memory (20_memory.md): a list of cells in canonical form -/

/-- What an address reads as where the list has no cell for it: the reset contents, `GLYPH` at 0x000 to 0x04F and
0 above (R51, R53, R39). -/
def Mem.unlisted (g : Config.Glyph) (a : Nat) : Byte :=
  if h : a < 80 then g[a] else 0

/-- The cell listed for an address, if there is one. -/
def Mem.find (a : Nat) : List Host.Cell → Option Byte
  | [] => none
  | (k, b) :: m => if k = a then some b else Mem.find a m

/-- The byte at an address (R55). -/
def Mem.read (g : Config.Glyph) (m : List Host.Cell) (a : Nat) : Byte :=
  (Mem.find a m).getD (Mem.unlisted g a)

/-- List a byte for an address, keeping the addresses rising. -/
def Mem.insert (a : Nat) (b : Byte) : List Host.Cell → List Host.Cell
  | [] => [(a, b)]
  | (k, c) :: m =>
    if a < k then (a, b) :: (k, c) :: m
    else if a = k then (a, b) :: m
    else (k, c) :: Mem.insert a b m

/-- Unlist an address. -/
def Mem.erase (a : Nat) : List Host.Cell → List Host.Cell
  | [] => []
  | (k, c) :: m => if k = a then Mem.erase a m else (k, c) :: Mem.erase a m

/-- Store a byte (R55); a byte equal to the reset contents is not listed, so that equal memories are equal lists. -/
def Mem.write (g : Config.Glyph) (m : List Host.Cell) (a : Nat) (b : Byte) : List Host.Cell :=
  if b = Mem.unlisted g a then Mem.erase a m else Mem.insert a b m

/-- Every listed address is at least `lo`, and they rise strictly. -/
def Mem.risesFrom : Nat → List Host.Cell → Bool
  | _, [] => true
  | lo, (k, _) :: m => decide (lo ≤ k) && Mem.risesFrom (k + 1) m

/-- The canonical form: addresses strictly rising and below 4096, no cell equal to its reset contents. -/
def Mem.wf (g : Config.Glyph) (m : List Host.Cell) : Bool :=
  Mem.risesFrom 0 m && m.all (fun c => decide (c.1 < 4096) && decide (c.2 ≠ Mem.unlisted g c.1))

/-- The state's memory is in canonical form. -/
def State.memWf (s : State) : Bool := Mem.wf s.params.glyph s.mem

/-- `MemRead(a, 1)` (R55). -/
def State.readByte (s : State) (a : Addr) : Byte := Mem.read s.params.glyph s.mem a.toNat

/-- `MemWrite(a, 1, b)` (R55). -/
def State.writeByte (s : State) (a : Addr) (b : Byte) : State :=
  { s with mem := Mem.write s.params.glyph s.mem a.toNat b }

/-! ### Registers (10_state.md R21 to R29) -/

/-- `V[x]` (R21). -/
def State.reg (s : State) (x : Nibble) : Byte := s.v[x.toNat]'x.isLt

/-- `V[x] <- b` (R21). -/
def State.setReg (s : State) (x : Nibble) (b : Byte) : State := { s with v := s.v.set x.toNat b x.isLt }

/-- The index of the flag register, VF (R6, R22). -/
def vf : Nibble := 15

/-- `V[15] <- flag`, then `V[x] <- result`: the write order of the flag-setting instructions (42_load_alu.md R132). -/
def State.setFlagThenReg (s : State) (flag : Byte) (x : Nibble) (result : Byte) : State :=
  (s.setReg vf flag).setReg x result

/-- `I <- w` (R23). -/
def State.setIndex (s : State) (w : Word) : State := { s with i := w }

/-- `PC <- target` (R24). -/
def State.setPc (s : State) (target : Word) : State := { s with pc := target }

/-- Skip the next instruction: `PC <- trunc_16(PC + 2)` (41_control_flow.md R114). -/
def State.skip (s : State) : State := s.setPc (s.pc + 2)

/-- Skip the next instruction if a condition holds (R114). -/
def State.skipIf (s : State) (c : Bool) : State := if c then s.skip else s

/-- `DT <- b` (R27). -/
def State.setDelay (s : State) (b : Byte) : State := { s with dt := b }

/-- `ST <- b` (R28). -/
def State.setSound (s : State) (b : Byte) : State := { s with st := b }

/-! ### The call stack controller (41_control_flow.md R110, R112) -/

/-- `STACK[k]` (R25). -/
def State.slot (s : State) (k : Nibble) : Word := s.stack[k.toNat]'k.isLt

/-- `SP <- (SP + 1) mod 16; STACK[SP] <- w` (R112). -/
def State.push (s : State) (w : Word) : State :=
  { s with sp := s.sp + 1, stack := s.stack.set (s.sp + 1).toNat w (s.sp + 1).isLt }

/-- `PC <- STACK[SP]; SP <- (SP - 1) mod 16` (R110); the slot is read, not cleared. -/
def State.popPc (s : State) : State := { s with pc := s.slot s.sp, sp := s.sp - 1 }

/-! ### The display (10_state.md R30) -/

/-- `DISP[r][c]` (R30). -/
def State.pixel (s : State) (r c : Coord) : Bool := (s.disp[r.toNat]'r.isLt)[c.toNat]'c.isLt

/-- `DISP[r][c] <- b`. -/
def State.setPixel (s : State) (r c : Coord) (b : Bool) : State :=
  { s with disp := s.disp.set r.toNat ((s.disp[r.toNat]'r.isLt).set c.toNat b c.isLt) r.isLt }

/-- Every pixel off (44_display.md R150). -/
def State.clearDisplay (s : State) : State :=
  { s with disp := Vector.replicate 64 (Vector.replicate 64 false) }

/-! ### The keypad and the input `rand` -/

/-- `KEY[k]` (R32). -/
def State.keyDown (s : State) (k : Nibble) : Bool := s.key[k.toNat]'k.isLt

/-- The least key that is down, if one is (45_keypad_timers.md R166). -/
def State.lowestKey (s : State) : Option Nibble :=
  ((List.range 16).map (BitVec.ofNat 4)).find? s.keyDown

/-- The step's input byte `rand` (R35): the byte presented, or a free one (log entry 2). -/
def State.randByte (s : State) : Byte := s.rand.getD (Config.freeRand s.draws)

/-! ### Events (60_exceptions.md R174) -/

/-- `emit e`: an output, which nothing reads (R174). -/
def State.emit (s : State) (e : Event) : State := { s with events := s.events ++ [e] }

/-- Emit one of the two optional events, where the implementation does (R174, log entry 4). -/
def State.emitOptional (s : State) (e : Event) : State := if s.params.optionalEvents then s.emit e else s

/-! ### Taking a fault, and leaving it (60_exceptions.md R177, R178)

The spec's one exception entry. There is no return from it: only reset leaves `Faulted` (R178). -/

/-- The codes of R170's table, labels only. -/
def Fault.code : Fault → Nat
  | .fetchOutOfRange _ => 1
  | .loadOverflow _ => 2
  | .keyIndexOutOfRange _ => 3

/-- `raise F(info)`: `RUN <- Faulted(F, info)` and nothing else (R177). A handler raises before it has changed
anything; State.commit undoes the rest of its step. -/
def State.raise (s : State) (f : Fault) : State := { s with run := .faulted f }

/-- `RUN <- AwaitingKey(t)` (R165). -/
def State.awaitKey (s : State) (t : Nibble) : State := { s with run := .awaitingKey t }

/-! ### The parts of a step around its handler (40_step_cycle.md R90) -/

/-- Action 1's read: the big-endian word at `PC`, if both addresses are below 4096; neither is wrapped
(20_memory.md R56, C1). -/
def State.fetchWord (s : State) : Option Word :=
  if s.pc.toNat + 1 ≤ 4095 then
    some (wordOfBytes (s.readByte (BitVec.ofNat 12 s.pc.toNat)) (s.readByte (BitVec.ofNat 12 (s.pc.toNat + 1))))
  else none

/-- Store an instruction word, high byte first, where the next fetch takes it (R81, R56). A fetch needs
`RUN` = `Running` (R91) and `PC` at most 4094 (R56): only where that does not hold are they set, `PC` then to the
reset vector. -/
def State.placeWord (s : State) (w : Word) : State :=
  let a : Word := if s.pc.toNat + 1 ≤ 4095 then s.pc else 0x200
  let t := (s.writeByte (BitVec.ofNat 12 a.toNat) (w.extractLsb' 8 8)).writeByte
    (BitVec.ofNat 12 (a.toNat + 1)) (w.extractLsb' 0 8)
  { t with pc := a, run := .running }

/-- The rest of actions 1 to 4, before the handler: `PC <- PC + 2` (R92), `SC <- SC + 1 mod 16` (R93),
`I <- I & 0x0FFF` (R95). They do not write `V`, so a handler's reads of `V` are the latched `vx`, `vy` (R94). -/
def State.prepare (s : State) : State :=
  { s with pc := s.pc + 2, sc := s.sc + 1, i := s.i &&& 0x0FFF }

/-- Action 6, the tick: `if SC = 0 and DT != 0 then DT <- DT - 1` (R98). -/
def State.tick (s : State) : State :=
  if s.sc = 0 ∧ s.dt ≠ 0 then (s.setDelay (s.dt - 1)).emitOptional .timerTick else s

/-- The step has used its input `rand`: the byte presented is gone, and the next free byte is another (R35). -/
def State.takeRand (s : State) : State := { s with rand := none, draws := s.draws + 1 }

/-- After the handler. A step whose handler raised a fault leaves everything as it was before the step, but
`RUN` (R99); any other ends with the tick (R98). -/
def State.commit (before after : State) : State :=
  match after.run with
  | .faulted f => before.raise f
  | .running | .awaitingKey _ => after.tick.takeRand

/-- The key-wait action of a step in `AwaitingKey(t)` (45_keypad_timers.md R166): the least key that is down goes
to `V[t]` and the machine runs again; with no key down nothing changes. -/
def State.keyWait (s : State) (t : Nibble) : State :=
  match s.lowestKey with
  | some k => { s.setReg t (k.setWidth 8) with run := .running }
  | none => s

/-- A step that executes no instruction uses no byte of `rand`; the one presented for it is gone (R35). -/
def State.dropRand (s : State) : State := { s with rand := none }

end Sys2Proof.Machine
end

