-- ==== Sys2Proof/Machine/Operands.lean ====
section
/-! DEFINITION. Operand assembly: the zero extensions of 30_encoding.md R73, the address translator of
20_memory.md R54, and the operand values of the index, BCD and draw instructions. Arithmetic inside is on naturals,
narrowed once at the end (00_scope.md R11). -/

namespace Sys2Proof.Machine

/-- `zext_16(nnn)` (R73). -/
def zextAddr (nnn : Addr) : Word := nnn.setWidth 16

/-- `zext_16(b)` (R73). -/
def zextByte (b : Byte) : Word := b.setWidth 16

/-- The address translator `EA(base, off) = (base + off) mod 4096` (R54). -/
def ea (base : Word) (off : Nat) : Addr := BitVec.ofNat 12 (base.toNat + off)

/-- The target of the indexed jump: `nnn + V[0]` in 16 bits, not reduced modulo 4096 (41_control_flow.md R113). -/
def indexedTarget (nnn : Addr) (v0 : Byte) : Word := zextAddr nnn + zextByte v0

/-- The glyph address of a register's value: `vx * 5`, exact, not masked (43_index_memory.md R142, D14). -/
def glyphAddress (vx : Byte) : Word := BitVec.ofNat 16 (vx.toNat * 5)

/-- The decimal digits of a byte (43_index_memory.md R143). -/
def hundreds (vx : Byte) : Byte := BitVec.ofNat 8 (vx.toNat / 100)
/-- The tens digit (R143). -/
def tens (vx : Byte) : Byte := BitVec.ofNat 8 (vx.toNat / 10 % 10)
/-- The units digit (R143). -/
def units (vx : Byte) : Byte := BitVec.ofNat 8 (vx.toNat % 10)

/-- The register at position `k` of a block move (R144, R145). -/
def blockReg (k : Nat) : Nibble := BitVec.ofNat 4 k

/-- A destination coordinate: `(origin + offset) mod 64` (44_display.md R151). -/
def coord (origin : Byte) (off : Nat) : Coord := BitVec.ofNat 6 (origin.toNat + off)

/-- The sprite bit of column `col`: bit `7 - col`, the most significant leftmost (44_display.md R153, D9). -/
def spriteBit (b : Byte) (col : Nat) : Bool := b.getLsbD (7 - col)

end Sys2Proof.Machine
end

