-- ==== Sys2Proof/Machine/ControlFlow.lean ====
section
/-! DEFINITION. Control transfer and the call stack (41_control_flow.md). `PC` has already been advanced past the
instruction (40_step_cycle.md R92): that is the value a call pushes and a skip adds to. -/

namespace Sys2Proof.Machine

/-- 00EE `RET`: `PC <- STACK[SP]`, then `SP <- (SP - 1) mod 16` (R110). -/
def execRet (s : State) : Host.Outcome State Fault Refusal := .next s.popPc

/-- 1nnn `JP nnn` (R111). -/
def execJp (nnn : Addr) (s : State) : Host.Outcome State Fault Refusal := .next (s.setPc (zextAddr nnn))

/-- 2nnn `CALL nnn`: `SP` up by one modulo 16, the return address to the new slot, then the jump (R112). -/
def execCall (nnn : Addr) (s : State) : Host.Outcome State Fault Refusal :=
  .next ((s.push s.pc).setPc (zextAddr nnn))

/-- Bnnn `JP V0, nnn`: `PC <- nnn + V[0]`, not reduced modulo 4096 (R113, D20). -/
def execJpV0 (nnn : Addr) (s : State) : Host.Outcome State Fault Refusal :=
  .next (s.setPc (indexedTarget nnn (s.reg 0)))

/-- 3xkk `SE Vx, kk`: skip if `vx = kk` (R114). -/
def execSeImm (x : Nibble) (kk : Byte) (s : State) : Host.Outcome State Fault Refusal :=
  .next (s.skipIf (s.reg x == kk))

/-- 4xkk `SNE Vx, kk`: skip if `vx != kk` (R115). -/
def execSneImm (x : Nibble) (kk : Byte) (s : State) : Host.Outcome State Fault Refusal :=
  .next (s.skipIf (s.reg x != kk))

/-- 5xy0 `SE Vx, Vy`: skip if `vx = vy` (R116). -/
def execSeReg (x y : Nibble) (s : State) : Host.Outcome State Fault Refusal :=
  .next (s.skipIf (s.reg x == s.reg y))

/-- 9xy0 `SNE Vx, Vy`: skip if `vx != vy` (R117). -/
def execSneReg (x y : Nibble) (s : State) : Host.Outcome State Fault Refusal :=
  .next (s.skipIf (s.reg x != s.reg y))

end Sys2Proof.Machine
end

