-- ==== Sys2Proof/Machine/Display.lean ====
section
/-! DEFINITION. The display (44_display.md): clear, and the XOR-blitting rasterizer with collision detection. -/

namespace Sys2Proof.Machine

/-- 00E0 `CLS`: every pixel off; the flag register is untouched (R150). -/
def execCls (s : State) : Host.Outcome State Fault Refusal := .next s.clearDisplay

/-- One column of one sprite row `b`: where the sprite bit is set, a lit pixel sets the collision flag, and the
pixel is toggled (R151). -/
def drawPixel (vx vy b : Byte) (row : Nat) (s : State) (col : Nat) : State :=
  if spriteBit b col then
    let r := coord vy row
    let c := coord vx col
    (if s.pixel r c then s.setReg vf 1 else s).setPixel r c (!s.pixel r c)
  else s

/-- One row of a sprite: its byte is at `EA(I, row)`; columns 0 to 7 ascending (R151). -/
def drawRow (vx vy : Byte) (s : State) (row : Nat) : State :=
  (List.range 8).foldl (drawPixel vx vy (s.readByte (ea s.i row)) row) s

/-- `n` rows, ascending (R151). -/
def drawSprite (vx vy : Byte) (n : Nat) (s : State) : State := (List.range n).foldl (drawRow vx vy) s

/-- Dxyn `DRW Vx, Vy, n`: the flag is reset first, even with no rows; the origin is `vx`, `vy` as latched, also
where `x` or `y` is 15 (R151, D31). -/
def execDrw (x y n : Nibble) (s : State) : Host.Outcome State Fault Refusal :=
  .next ((drawSprite (s.reg x) (s.reg y) n.toNat (s.setReg vf 0)).emitOptional .drawInvoked)

end Sys2Proof.Machine
end

