-- ==== Sys2Proof/Machine/IndexMemory.lean ====
section
/-! DEFINITION. The index register and memory (43_index_memory.md). Every address is `EA(I, off)`, wrapped modulo
4096 byte by byte (20_memory.md R54), so no access faults. No instruction here but LD I, ADD I and LD F writes `I`
(R146). -/

namespace Sys2Proof.Machine

/-- Annn `LD I, nnn` (R140). -/
def execLdI (nnn : Addr) (s : State) : Host.Outcome State Fault Refusal := .next (s.setIndex (zextAddr nnn))

/-- Fx1E `ADD I, Vx`: a 16-bit sum, reduced only by the next step's re-mask; no flag (R141, D16). -/
def execAddI (x : Nibble) (s : State) : Host.Outcome State Fault Refusal :=
  .next (s.setIndex (s.i + zextByte (s.reg x)))

/-- Fx29 `LD F, Vx`: `I <- vx * 5` (R142). -/
def execLdF (x : Nibble) (s : State) : Host.Outcome State Fault Refusal :=
  .next (s.setIndex (glyphAddress (s.reg x)))

/-- Fx33 `LD B, Vx`: hundreds, tens, units at `EA(I, 0)`, `EA(I, 1)`, `EA(I, 2)` (R143). -/
def execLdB (x : Nibble) (s : State) : Host.Outcome State Fault Refusal :=
  let vx := s.reg x
  .next (((s.writeByte (ea s.i 0) (hundreds vx)).writeByte (ea s.i 1) (tens vx)).writeByte (ea s.i 2) (units vx))

/-- One byte of a block store: `MemWrite(EA(I, k), 1, V[k])` (R144). -/
def storeBlockByte (s : State) (k : Nat) : State := s.writeByte (ea s.i k) (s.reg (blockReg k))

/-- Fx55 `LD [I], Vx`: store `V[0]` to `V[x]` from `EA(I, 0)` upward (R144). -/
def execLdMemVx (x : Nibble) (s : State) : Host.Outcome State Fault Refusal :=
  .next ((List.range (x.toNat + 1)).foldl storeBlockByte s)

/-- One byte of a block load: `V[k] <- MemRead(EA(I, k), 1)` (R145). -/
def loadBlockByte (s : State) (k : Nat) : State := s.setReg (blockReg k) (s.readByte (ea s.i k))

/-- Fx65 `LD Vx, [I]`: load `V[0]` to `V[x]` from `EA(I, 0)` upward; the addresses wrap (R145, D15). -/
def execLdVxMem (x : Nibble) (s : State) : Host.Outcome State Fault Refusal :=
  .next ((List.range (x.toNat + 1)).foldl loadBlockByte s)

end Sys2Proof.Machine
end

