-- ==== Sys2Proof/Machine/KeypadTimers.lean ====
section
/-! DEFINITION. Keypad and timers (45_keypad_timers.md). `KEY` is as the host left it before the step
(10_state.md R32). -/

namespace Sys2Proof.Machine

/-- A key skip: a register value above 15 is the fault `KeyIndexOutOfRange` (R167); otherwise skip if the key's
flag is as wanted (R160, R161). -/
def skipOnKey (vx : Byte) (wanted : Bool) (s : State) : State :=
  if vx.toNat > 15 then s.raise (.keyIndexOutOfRange vx)
  else s.skipIf (s.keyDown (vx.setWidth 4) == wanted)

/-- Ex9E `SKP Vx`: skip if the key is down (R160). -/
def execSkp (x : Nibble) (s : State) : Host.Outcome State Fault Refusal := .next (skipOnKey (s.reg x) true s)

/-- ExA1 `SKNP Vx`: the same as Ex9E where `SKNP_NEGATED` is false, its negation where it is true (R161, D13). -/
def execSknp (x : Nibble) (s : State) : Host.Outcome State Fault Refusal :=
  .next (skipOnKey (s.reg x) (!s.params.sknpNegated) s)

/-- Fx07 `LD Vx, DT`: the value before the step's tick (R162). -/
def execLdVxDt (x : Nibble) (s : State) : Host.Outcome State Fault Refusal := .next (s.setReg x s.dt)

/-- Fx0A `LD Vx, K`: nothing, or with `KEYWAIT_BLOCKING` the machine waits for a key (R165, D12). -/
def execLdVxK (x : Nibble) (s : State) : Host.Outcome State Fault Refusal :=
  .next (if s.params.keywaitBlocking then s.awaitKey x else s)

/-- Fx15 `LD DT, Vx`; the step's tick then acts on the new value (R163). -/
def execLdDtVx (x : Nibble) (s : State) : Host.Outcome State Fault Refusal := .next (s.setDelay (s.reg x))

/-- Fx18 `LD ST, Vx` (R164). -/
def execLdStVx (x : Nibble) (s : State) : Host.Outcome State Fault Refusal := .next (s.setSound (s.reg x))

end Sys2Proof.Machine
end

