-- ==== Sys2Proof/Machine/Flags.lean ====
section
/-! DEFINITION. The values the flag-setting instructions put in the flag register (10_state.md R22,
42_load_alu.md R126 to R130): 0 or 1, from the operands as latched. -/

namespace Sys2Proof.Machine

/-- A flag is the byte 0 or 1 (R22). -/
def flagOf (c : Bool) : Byte := if c then 1 else 0

/-- Carry out of an addition: 1 iff `a + b > 255` (R126). -/
def carryFlag (a b : Byte) : Byte := flagOf (decide (a.toNat + b.toNat > 255))

/-- No borrow: 1 iff the minuend is strictly greater (R127, R129). -/
def greaterFlag (minuend subtrahend : Byte) : Byte := flagOf (decide (minuend.toNat > subtrahend.toNat))

/-- The bit a right shift drives out (R128). -/
def lowBitFlag (a : Byte) : Byte := flagOf (a.getLsbD 0)

/-- The bit a left shift drives out (R130). -/
def highBitFlag (a : Byte) : Byte := flagOf (a.getLsbD 7)

end Sys2Proof.Machine
end

