-- ==== Sys2Proof/Machine/LoadAlu.lean ====
section
/-! DEFINITION. Register loads, ALU and random (42_load_alu.md). Each meaning is action 5 of a step: its reads of `V`
are the latched `vx`, `vy` (40_step_cycle.md R94), because nothing before it in the step writes `V`. -/

namespace Sys2Proof.Machine

/-- 6xkk `LD Vx, kk`: `V[x] <- kk` (R120). -/
def execLdImm (x : Nibble) (kk : Byte) (s : State) : Host.Outcome State Fault Refusal := .next (s.setReg x kk)

/-- 7xkk `ADD Vx, kk`: `V[x] <- (vx + kk) mod 256`, no flag (R121). -/
def execAddImm (x : Nibble) (kk : Byte) (s : State) : Host.Outcome State Fault Refusal :=
  .next (s.setReg x (s.reg x + kk))

/-- 8xy0 `LD Vx, Vy`: `V[x] <- vy` (R122). -/
def execLdReg (x y : Nibble) (s : State) : Host.Outcome State Fault Refusal := .next (s.setReg x (s.reg y))

/-- 8xy1 `OR Vx, Vy`, no flag (R123, D8). -/
def execOr (x y : Nibble) (s : State) : Host.Outcome State Fault Refusal :=
  .next (s.setReg x (s.reg x ||| s.reg y))

/-- 8xy2 `AND Vx, Vy`, no flag (R124, D8). -/
def execAnd (x y : Nibble) (s : State) : Host.Outcome State Fault Refusal :=
  .next (s.setReg x (s.reg x &&& s.reg y))

/-- 8xy3 `XOR Vx, Vy`, no flag (R125, D8). -/
def execXor (x y : Nibble) (s : State) : Host.Outcome State Fault Refusal :=
  .next (s.setReg x (s.reg x ^^^ s.reg y))

/-- 8xy4 `ADD Vx, Vy`: the carry to `V[15]`, then the sum modulo 256 to `V[x]` (R126, R132). -/
def execAddReg (x y : Nibble) (s : State) : Host.Outcome State Fault Refusal :=
  .next (s.setFlagThenReg (carryFlag (s.reg x) (s.reg y)) x (s.reg x + s.reg y))

/-- 8xy5 `SUB Vx, Vy`: `V[15]` is 1 iff `vx > vy`, then `V[x] <- (vx - vy) mod 256` (R127, R132). -/
def execSub (x y : Nibble) (s : State) : Host.Outcome State Fault Refusal :=
  .next (s.setFlagThenReg (greaterFlag (s.reg x) (s.reg y)) x (s.reg x - s.reg y))

/-- 8xy6 `SHR Vx`: the low bit to `V[15]`, then `V[x] <- vx >> 1`; `y` is ignored (R128, R132). -/
def execShr (x : Nibble) (s : State) : Host.Outcome State Fault Refusal :=
  .next (s.setFlagThenReg (lowBitFlag (s.reg x)) x (s.reg x >>> 1))

/-- 8xy7 `SUBN Vx, Vy`: `V[15]` is 1 iff `vy > vx`, then `V[x] <- (vy - vx) mod 256` (R129, R132). -/
def execSubn (x y : Nibble) (s : State) : Host.Outcome State Fault Refusal :=
  .next (s.setFlagThenReg (greaterFlag (s.reg y) (s.reg x)) x (s.reg y - s.reg x))

/-- 8xyE `SHL Vx`: the high bit to `V[15]`, then `V[x] <- (vx << 1) mod 256`; `y` is ignored (R130, R132). -/
def execShl (x : Nibble) (s : State) : Host.Outcome State Fault Refusal :=
  .next (s.setFlagThenReg (highBitFlag (s.reg x)) x (s.reg x <<< 1))

/-- Cxkk `RND Vx, kk`: `V[x] <- rand & kk`, with `rand` the step's input byte (R131, 10_state.md R35). -/
def execRnd (x : Nibble) (kk : Byte) (s : State) : Host.Outcome State Fault Refusal :=
  .next (s.setReg x (s.randByte &&& kk))

end Sys2Proof.Machine
end

