-- ==== Sys2Proof/Machine/Unknown.lean ====
section
/-! DEFINITION. UNKNOWN, the default handler (40_step_cycle.md R97). -/

namespace Sys2Proof.Machine

/-- UNKNOWN: the required event, with the address the word was fetched from, which is `PC - 2` once `PC` has been
advanced; no state change (R97, 60_exceptions.md R174). -/
def execUnknown (w : Word) (s : State) : Host.Outcome State Fault Refusal :=
  .next (s.emit (.unknownOpcode (s.pc - 2) w))

end Sys2Proof.Machine
end

