-- ==== Sys2Proof/Machine/Step.lean ====
section
/-! DEFINITION. The step (40_step_cycle.md R90): gate, fetch, prepare, handler, commit; and the placing of an
instruction word where the next step fetches it. -/

namespace Sys2Proof.Machine

/-- One call of the step operation (R90, R91). A faulted machine does nothing (R178); a waiting one does the
key-wait action (R166); a running one fetches, or faults where it cannot (R92), and runs the handler (R96). -/
def step (s : State) : Host.Outcome State Fault Refusal :=
  match s.run with
  | .faulted _ => .next s
  | .awaitingKey t => .next (s.keyWait t).dropRand
  | .running =>
    match s.fetchWord with
    | none => .next (s.raise (.fetchOutOfRange s.pc))
    | some w =>
      match exec (decode w) s.prepare with
      | .next t => .next (State.commit s t)
      | .fault f => .fault f
      | .refused r => .refused r

/-- The state with the instruction of the `nbits` low bits of `w` where the next step fetches it (log entry 24). -/
def State.withFetchWord (s : State) (nbits w : Nat) : State := s.placeWord (BitVec.ofNat 16 (w % 2 ^ nbits))

end Sys2Proof.Machine
end

