-- ==== Sys2Proof/Machine/HostOps.lean ====
section
/-! DEFINITION. What the host can do to the machine between steps (70_reset_and_hazards.md R194): reset, load,
write keys, present the input byte, consume events. None of it happens inside a step (00_scope.md R5). -/

namespace Sys2Proof.Machine

/-- The largest image, `4096 - 0x200` bytes (00_scope.md R6). -/
def maxImage : Nat := 3584

/-- `reset()` (R190): every field of R20's record at its reset value, in any run state. The machine's parameters
are fixed; the input `rand` and the events already emitted are no state of the core (R34, R35) and stand as they are. -/
def State.hostReset (s : State) : State :=
  { State.resetWith s.params with rand := s.rand, draws := s.draws, events := s.events }

/-- Write bytes verbatim from an address upward (R191). -/
def State.writeBytes (s : State) (a : Nat) : List Byte → State
  | [] => s
  | b :: bs => (s.writeByte (BitVec.ofNat 12 a) b).writeBytes (a + 1) bs

/-- `load(image)` (R191): bytes from 0x200 upward, or `LoadOverflow` and no byte written. The host has this move
after reset and before the first step only (D19). -/
def State.hostLoad (s : State) (image : List Byte) : State :=
  if image.length > maxImage then s.raise (.loadOverflow image.length) else s.writeBytes 0x200 image

/-- Set or clear a key flag, between steps (10_state.md R32). -/
def State.hostSetKey (s : State) (k : Nibble) (down : Bool) : State :=
  { s with key := s.key.set k.toNat down k.isLt }

/-- Present a byte at the input `rand` for the next step (R35): the spec's `step(rand)` is step after this. -/
def State.hostPresentRand (s : State) (b : Byte) : State := { s with rand := some b }

/-- Consume the events (R194). -/
def State.hostTakeEvents (s : State) : State := { s with events := [] }

/-- The launch state: reset, then load (R192). -/
def State.launch (p : Config.Params) (image : List Byte) : State := (State.resetWith p).hostLoad image

end Sys2Proof.Machine
end

