-- ==== Sys2Proof/Safety.lean ====
section
/-! DEFINITION. What claims are stated in: a safe state, the moves of the host and the core and what they reach, the
invariant of the machine, and the relations that say what an instruction leaves as it was. -/

namespace Sys2Proof.Machine

/-! ### Safe runs -/

/-- No fatal condition has occurred. A faulted run is never a result (60_exceptions.md R178). -/
def State.safe (s : State) : Bool :=
  match s.run with
  | .faulted _ => false
  | .running | .awaitingKey _ => true

/-! ### The host and the core together (00_scope.md R5, R9, 70_reset_and_hazards.md R194) -/

/-- One move: the core's, or one of the host's, between steps. A load comes after a reset and before the first step
(R191, D19), so reset and load are one move; an empty image is a reset alone. -/
inductive HostMove where
  /-- `reset()` and then `load(image)` (R190, R191). -/
  | launch (image : List Byte)
  /-- Write a key flag (R32). -/
  | setKey (k : Nibble) (down : Bool)
  /-- Present the byte of the next step at `rand` (R35). -/
  | presentRand (b : Byte)
  /-- Consume the events (R194). -/
  | takeEvents
  /-- Call the step operation (R90). -/
  | step
deriving DecidableEq, Repr

/-- What a move does. A step always answers a next state; the other two outcomes would change nothing. -/
def State.move (s : State) : HostMove → State
  | .launch image => s.hostReset.hostLoad image
  | .setKey k down => s.hostSetKey k down
  | .presentRand b => s.hostPresentRand b
  | .takeEvents => s.hostTakeEvents
  | .step =>
    match Sys2Proof.Machine.step s with
    | .next t => t
    | .fault _ | .refused _ => s

/-- A sequence of moves. -/
def State.moves (s : State) (ms : List HostMove) : State := ms.foldl State.move s

/-! ### The invariant -/

/-- What holds of every state a run reaches, whatever the host does. -/
structure State.Inv (s : State) : Prop where
  /-- Memory is in canonical form. -/
  memory : s.memWf = true
  /-- `I` is at most 4350 between steps (10_state.md R23). -/
  index : s.i.toNat ≤ 4350
  /-- `PC` is at most 0x10FE (R24). -/
  counter : s.pc.toNat ≤ 0x10FE
  /-- A slot holds at most 4096, the most `PC` can be in a call (R24, R25). -/
  slots : ∀ k : Nibble, (s.slot k).toNat ≤ 4096
  /-- `AwaitingKey` exists only where Fx0A blocks (R33). -/
  waiting : ∀ t : Nibble, s.run = .awaitingKey t → s.params.keywaitBlocking = true

/-! ### What two states share -/

/-- Every general register but those listed. -/
def SameRegsBut (xs : List Nibble) (s t : State) : Prop := ∀ r : Nibble, r ∉ xs → t.reg r = s.reg r
/-- The call stack: every slot, and `SP`. -/
def SameStack (s t : State) : Prop := t.sp = s.sp ∧ ∀ k : Nibble, t.slot k = s.slot k
/-- Both timers and the step counter. -/
def SameTimers (s t : State) : Prop := t.dt = s.dt ∧ t.st = s.st ∧ t.sc = s.sc
/-- Every pixel. -/
def SameDisplay (s t : State) : Prop := ∀ r c : Coord, t.pixel r c = s.pixel r c
/-- Every byte of memory reads the same. -/
def SameMemory (s t : State) : Prop := ∀ a : Addr, t.readByte a = s.readByte a
/-- The run state, and what the host gives: keys, parameters, the input `rand`. -/
def SameRest (s t : State) : Prop :=
  t.run = s.run ∧ (∀ k : Nibble, t.keyDown k = s.keyDown k) ∧ t.params = s.params ∧ t.rand = s.rand ∧ t.draws = s.draws

/-- Everything but the general registers listed is the same: the frame of a register instruction. -/
def OnlyRegs (xs : List Nibble) (s t : State) : Prop :=
  SameRegsBut xs s t ∧ t.i = s.i ∧ t.pc = s.pc ∧ SameStack s t ∧ SameTimers s t ∧ SameDisplay s t ∧
  SameMemory s t ∧ SameRest s t ∧ t.events = s.events

/-- Everything but `PC` is the same: the frame of a jump or a skip. -/
def OnlyPc (s t : State) : Prop :=
  SameRegsBut [] s t ∧ t.i = s.i ∧ SameStack s t ∧ SameTimers s t ∧ SameDisplay s t ∧
  SameMemory s t ∧ SameRest s t ∧ t.events = s.events

/-- Everything but `I` is the same: the frame of an index instruction. -/
def OnlyIndex (s t : State) : Prop :=
  SameRegsBut [] s t ∧ t.pc = s.pc ∧ SameStack s t ∧ SameTimers s t ∧ SameDisplay s t ∧
  SameMemory s t ∧ SameRest s t ∧ t.events = s.events

/-- Everything but the bytes at the addresses listed is the same: the frame of a store. -/
def OnlyBytes (as : List Addr) (s t : State) : Prop :=
  SameRegsBut [] s t ∧ t.i = s.i ∧ t.pc = s.pc ∧ SameStack s t ∧ SameTimers s t ∧ SameDisplay s t ∧
  (∀ a : Addr, a ∉ as → t.readByte a = s.readByte a) ∧ SameRest s t ∧ t.events = s.events

/-- Everything but the two timers is the same. -/
def OnlyTimers (s t : State) : Prop :=
  SameRegsBut [] s t ∧ t.i = s.i ∧ t.pc = s.pc ∧ SameStack s t ∧ t.sc = s.sc ∧ SameDisplay s t ∧
  SameMemory s t ∧ SameRest s t ∧ t.events = s.events

/-! ### Which instruction may write what -/

/-- The destination registers an instruction names: its `x` field, and for a block load `V[0]` to `V[x]`
(10_state.md R21). -/
def writesReg : Instr → Nibble → Bool
  | .ldImm x _, r | .addImm x _, r | .rnd x _, r => r == x
  | .ldReg x _, r | .or x _, r | .and x _, r | .xor x _, r => r == x
  | .addReg x _, r | .sub x _, r | .shr x _, r | .subn x _, r | .shl x _, r => r == x
  | .ldVxDt x, r => r == x
  | .ldVxMem x, r => decide (r ≤ x)
  | _, _ => false

/-- The six instructions that write the flag register as a side effect (10_state.md R22). -/
def setsFlag : Instr → Bool
  | .addReg _ _ | .sub _ _ | .shr _ _ | .subn _ _ | .shl _ _ | .drw _ _ _ => true
  | _ => false

/-- The instructions that replace `PC` or skip (R24, R37). -/
def writesPc : Instr → Bool
  | .ret | .jp _ | .call _ | .jpV0 _ | .seImm _ _ | .sneImm _ _ | .seReg _ _ | .sneReg _ _ | .skp _ | .sknp _ => true
  | _ => false

/-- A push of the call stack (R26). -/
def isCall : Instr → Bool
  | .call _ => true
  | _ => false

/-- A pop of the call stack (R26). -/
def isRet : Instr → Bool
  | .ret => true
  | _ => false

/-! ### Runs of instructions and of steps -/

/-- Handlers one after another, stopping at the first that does not answer a next state. -/
def execAll : List Instr → State → Host.Outcome State Fault Refusal
  | [], s => .next s
  | i :: is, s =>
    match exec i s with
    | .next t => execAll is t
    | .fault f => .fault f
    | .refused r => .refused r

/-- The next step of `s` fetches and executes `i`. -/
def State.Executes (s : State) (i : Instr) : Prop := s.run = .running ∧ ∃ w, s.fetchWord = some w ∧ decode w = i

/-- `n` steps lead from `s` to `t`, each of which executes an instruction that is not `LD DT, Vx` and ends without
a fault. -/
def QuietSteps : Nat → State → State → Prop
  | 0, s, t => t = s
  | n + 1, s, t => ∃ i u, s.Executes i ∧ (∀ x, i ≠ .ldDtVx x) ∧ step s = .next u ∧ u.safe = true ∧ QuietSteps n u t

/-! ### The sprite of a draw, and the words of R81 -/

/-- Whether the sprite of a draw at (`vx`, `vy`) of height `n` has a set bit over the pixel in row `r`, column `c`:
the closed form of 44_display.md R152(a). -/
def spriteOver (s : State) (vx vy : Byte) (n : Nat) (r c : Coord) : Bool :=
  let dr := (r - vy.setWidth 6).toNat
  let dc := (c - vx.setWidth 6).toNat
  decide (dr < n) && decide (dc < 8) && (s.readByte (ea s.i dr)).getLsbD (7 - dc)

/-- `match | nnn` (30_encoding.md R81). -/
def wordNnn (m : Word) (nnn : Addr) : Word := m ||| nnn.setWidth 16
/-- `match | (x << 8) | kk` (R81). -/
def wordXkk (m : Word) (x : Nibble) (kk : Byte) : Word := m ||| (x.setWidth 16 <<< 8) ||| kk.setWidth 16
/-- `match | (x << 8) | (y << 4)` (R81). -/
def wordXy (m : Word) (x y : Nibble) : Word := m ||| (x.setWidth 16 <<< 8) ||| (y.setWidth 16 <<< 4)
/-- `match | (x << 8) | (y << 4) | n` (R81). -/
def wordXyn (m : Word) (x y n : Nibble) : Word := wordXy m x y ||| n.setWidth 16
/-- `match | (x << 8)` (R81). -/
def wordX (m : Word) (x : Nibble) : Word := m ||| (x.setWidth 16 <<< 8)

end Sys2Proof.Machine
end

