-- ==== Sys2Proof/Certificates/Slice0/Obligations.lean ====
section
/-! DEFINITION. The statements for the provers. Each says which rules of spec/ it formalises; where a clause rests on
a choice the spec marks as its own (D<n>), or on one of the model's, the docstring names it and its log entry. The
frames of Safety.lean also say that a handler leaves the model's own fields for the parameters (log entry 1) and the
input `rand` (log entry 2) as they were. -/

open Sys2Proof Sys2Proof.Machine

/-! ### The step -/

/-- A running machine with two fetchable bytes runs the instruction they decode to: the handler on the prepared
state, then the commit (R90, R92, R96). That an odd `PC` is fetched from as it stands is the spec's D22 (log
entry 21). -/
def Obligations.StepRunsDecodedInstruction : Prop :=
  ∀ (s : State) (i : Instr), s.run = .running → s.pc.toNat < 4095 →
    decode (s.readByte (BitVec.ofNat 12 s.pc.toNat) ++ s.readByte (BitVec.ofNat 12 (s.pc.toNat + 1))) = i →
    step s = match exec i s.prepare with
      | .next t => .next (State.commit s t)
      | .fault f => .fault f
      | .refused r => .refused r

/-- What the step does before the handler: `PC + 2`, `SC + 1 mod 16`, `I mod 4096`, nothing else
(R92, R93, R95). -/
def Obligations.PrepareAdvancesCountsAndMasks : Prop :=
  ∀ s : State, s.prepare.pc.toNat = (s.pc.toNat + 2) % 65536 ∧ s.prepare.sc.toNat = (s.sc.toNat + 1) % 16 ∧
    s.prepare.i.toNat = s.i.toNat % 4096 ∧
    SameRegsBut [] s s.prepare ∧ SameStack s s.prepare ∧ s.prepare.dt = s.dt ∧ s.prepare.st = s.st ∧
    SameDisplay s s.prepare ∧ SameMemory s s.prepare ∧ SameRest s s.prepare ∧ s.prepare.events = s.events

/-- What the step does after the handler. A handler that raised a fault: the state before the step, `RUN` replaced
(R99; the spec's D3). Any other: `DT` down by one where `SC` is 0 and `DT` is not (R98; the phase is the spec's D4,
log entry 8); the model's `rand` and `draws` move on (log entry 2), the parameters stand (log entry 1), and
a tick that took `DT` down emits its optional event (R174, log entry 4). -/
def Obligations.CommitTicksOrDiscards : Prop :=
  ∀ s t : State,
    (∀ f, t.run = .faulted f → State.commit s t = { s with run := .faulted f }) ∧
    (t.safe = true →
      (State.commit s t).dt.toNat = (if t.sc = 0 then t.dt.toNat - 1 else t.dt.toNat) ∧
      (State.commit s t).st = t.st ∧ (State.commit s t).sc = t.sc ∧ (State.commit s t).pc = t.pc ∧
      (State.commit s t).i = t.i ∧ SameRegsBut [] t (State.commit s t) ∧ SameStack t (State.commit s t) ∧
      SameDisplay t (State.commit s t) ∧ SameMemory t (State.commit s t) ∧ (State.commit s t).run = t.run ∧
      (∀ k, (State.commit s t).keyDown k = t.keyDown k) ∧ (State.commit s t).params = t.params ∧
      (State.commit s t).rand = none ∧ (State.commit s t).draws = t.draws + 1 ∧
      (State.commit s t).events = t.events ++
        (if t.sc = 0 ∧ t.dt ≠ 0 ∧ t.params.optionalEvents = true then [.timerTick] else []))

/-- A fetch that needs an address of 4096 or more faults, and nothing but `RUN` changes (R56, R92, R171; for `PC` of
4096 and more the spec's D2, and the frozen state its D3; log entries 6, 7). -/
def Obligations.FetchPastEndFaults : Prop :=
  ∀ s : State, s.run = .running → 4095 ≤ s.pc.toNat →
    step s = .next { s with run := .faulted (.fetchOutOfRange s.pc) }

/-- A faulted machine never changes again, however often it is stepped (R91, R178; the spec's D3, D30; log
entry 7). -/
def Obligations.FaultedMachineIsFrozen : Prop :=
  ∀ (n : Nat) (s : State) (f : Fault), s.run = .faulted f → Host.Core.run Sys2Proof.core n s = .next s

/-- Every step of every state answers a next state: no instruction is refused and none stops the model. The faults
of R170 are run states (R177; the model's reading, log entry 5). -/
def Obligations.EveryStepAnswersNext : Prop :=
  (∀ (i : Instr) (s : State), ∃ t, exec i s = .next t) ∧ ∀ s : State, ∃ t, step s = .next t

/-- An unknown opcode is a two-byte no-op that reports itself: `PC`, `SC`, `I` and the tick as in any step, the event
with the word's own address, nothing else (R97; that it counts and ticks is the spec's D5, the payload its D26, log
entry 9; that the tick is in the step where `SC` was 15 is its D4, log entry 8; the optional tick event is log
entry 4; the model's own fields: the parameters stand, log entry 1, `rand` and `draws` move on, log entry 2). -/
def Obligations.UnknownWordIsSkippedAndReported : Prop :=
  (∀ (w : Word) (s : State), exec (.unknown w) s =
    .next { s with events := s.events ++ [.unknownOpcode (s.pc - 2) w] }) ∧
  ∀ (s : State) (w : Word), s.run = .running → s.fetchWord = some w → decode w = .unknown w →
    ∃ t, step s = .next t ∧ t.pc = s.pc + 2 ∧ t.sc = s.sc + 1 ∧ t.i.toNat = s.i.toNat % 4096 ∧
      t.dt.toNat = (if s.sc = 15 then s.dt.toNat - 1 else s.dt.toNat) ∧ t.st = s.st ∧
      SameRegsBut [] s t ∧ SameStack s t ∧ SameDisplay s t ∧ SameMemory s t ∧ t.run = .running ∧
      (∀ k, t.keyDown k = s.keyDown k) ∧ t.params = s.params ∧ t.rand = none ∧ t.draws = s.draws + 1 ∧
      t.events = s.events ++ [.unknownOpcode s.pc w] ++
        (if s.sc = 15 ∧ s.dt ≠ 0 ∧ s.params.optionalEvents = true then [.timerTick] else [])

/-- The cadence of the delay timer over any number of executed steps that do not write it: `SC` counts the steps
modulo 16, and `DT` is down by one for each time it returned to 0, never below 0. Sixteen steps take exactly one
(R93, R98; where in the sixteen is the spec's D4, log entry 8; that unknown words are among the steps counted is its
D5, log entry 9). -/
def Obligations.DelayTimerCadence : Prop :=
  ∀ (n : Nat) (s t : State), QuietSteps n s t →
    t.sc.toNat = (s.sc.toNat + n) % 16 ∧ t.dt.toNat = s.dt.toNat - (s.sc.toNat + n) / 16

/-- While waiting for a key: the least key down goes to the register and the machine runs again; with none down
nothing changes; no instruction is fetched either way, so `PC`, `SC`, `I`, both timers, the display, memory and the
stack stand (R166, R91; its details are the spec's D12, log entry 15). The byte presented at `rand` is dropped
and `draws` stands (log entry 2), as do the parameters (log entry 1). -/
def Obligations.KeyWaitDeliversLeastKey : Prop :=
  ∀ (s : State) (t : Nibble), s.run = .awaitingKey t →
    (∀ k : Nibble, s.keyDown k = true → (∀ j : Nibble, j < k → s.keyDown j = false) →
      ∃ u, step s = .next u ∧ (u.reg t).toNat = k.toNat ∧ u.run = .running ∧ SameRegsBut [t] s u ∧ u.pc = s.pc ∧
        u.i = s.i ∧ SameTimers s u ∧ SameStack s u ∧ SameDisplay s u ∧ SameMemory s u ∧ u.events = s.events ∧
        (∀ j, u.keyDown j = s.keyDown j) ∧ u.params = s.params ∧ u.rand = none ∧ u.draws = s.draws) ∧
    ((∀ k : Nibble, s.keyDown k = false) → step s = .next { s with rand := none })

/-! ### Control transfer -/

/-- `RET` (R110): the slot at `SP` goes to `PC`, `SP` goes down modulo 16, no slot changes. -/
def Obligations.ReturnPopsTheStack : Prop :=
  decode 0x00EE = .ret ∧
  ∀ s : State, ∃ t, exec .ret s = .next t ∧ t.pc = s.slot s.sp ∧ t.sp.toNat = (s.sp.toNat + 15) % 16 ∧
    (∀ k, t.slot k = s.slot k) ∧ SameRegsBut [] s t ∧ t.i = s.i ∧ SameTimers s t ∧ SameDisplay s t ∧
    SameMemory s t ∧ SameRest s t ∧ t.events = s.events

/-- `JP nnn` (R111). -/
def Obligations.JumpReplacesPc : Prop :=
  ∀ nnn : Addr, decode (wordNnn 0x1000 nnn) = .jp nnn ∧
    ∀ s : State, ∃ t, exec (.jp nnn) s = .next t ∧ t.pc.toNat = nnn.toNat ∧ OnlyPc s t

/-- `CALL nnn` (R112): `SP` up modulo 16 first, then the return address into the new top slot, then the jump. -/
def Obligations.CallPushesReturnAddress : Prop :=
  ∀ nnn : Addr, decode (wordNnn 0x2000 nnn) = .call nnn ∧
    ∀ s : State, ∃ t, exec (.call nnn) s = .next t ∧ t.sp.toNat = (s.sp.toNat + 1) % 16 ∧ t.slot t.sp = s.pc ∧
      (∀ k, k ≠ t.sp → t.slot k = s.slot k) ∧ t.pc.toNat = nnn.toNat ∧ SameRegsBut [] s t ∧ t.i = s.i ∧
      SameTimers s t ∧ SameDisplay s t ∧ SameMemory s t ∧ SameRest s t ∧ t.events = s.events

/-- `JP V0, nnn` (R113): `nnn` plus `V[0]`, whatever the `x` nibble is, not reduced modulo 4096 (the spec's D20, log
entry 21). -/
def Obligations.IndexedJumpAddsV0 : Prop :=
  ∀ nnn : Addr, decode (wordNnn 0xB000 nnn) = .jpV0 nnn ∧
    ∀ s : State, ∃ t, exec (.jpV0 nnn) s = .next t ∧ t.pc.toNat = nnn.toNat + (s.reg 0).toNat ∧ OnlyPc s t

/-- The four value skips (R114 to R117): `PC` moves by 2 more, modulo 65536, exactly where the comparison holds. -/
def Obligations.ValueSkipsCompare : Prop :=
  (∀ (x : Nibble) (kk : Byte), decode (wordXkk 0x3000 x kk) = .seImm x kk ∧
    decode (wordXkk 0x4000 x kk) = .sneImm x kk ∧ ∀ s : State,
    (∃ t, exec (.seImm x kk) s = .next t ∧ OnlyPc s t ∧ t.pc = if s.reg x = kk then s.pc + 2 else s.pc) ∧
    (∃ t, exec (.sneImm x kk) s = .next t ∧ OnlyPc s t ∧ t.pc = if s.reg x ≠ kk then s.pc + 2 else s.pc)) ∧
  (∀ x y : Nibble, decode (wordXy 0x5000 x y) = .seReg x y ∧ decode (wordXy 0x9000 x y) = .sneReg x y ∧
    ∀ s : State,
    (∃ t, exec (.seReg x y) s = .next t ∧ OnlyPc s t ∧ t.pc = if s.reg x = s.reg y then s.pc + 2 else s.pc) ∧
    (∃ t, exec (.sneReg x y) s = .next t ∧ OnlyPc s t ∧ t.pc = if s.reg x ≠ s.reg y then s.pc + 2 else s.pc))

/-- The call stack controller nests: up to 16 calls and as many returns bring `PC` and `SP` back; and 17 calls with
16 returns leave `SP` one up and `PC` at the second call's return address. The slots then hold the return addresses
of calls 2 to 17, the 17th where the first's stood, so that a 17th return goes to the 17th call's return address and
not the first's (R118(a), (c)). No step's advance lies between the handlers: a call's return address is here the
target of the call before it. -/
def Obligations.NestedCallsReturn : Prop :=
  (∀ (targets : List Addr) (s : State), targets.length ≤ 16 →
    ∃ t, execAll (targets.map .call ++ List.replicate targets.length .ret) s = .next t ∧ t.pc = s.pc ∧
      t.sp = s.sp ∧ SameRegsBut [] s t ∧ t.i = s.i ∧ SameMemory s t ∧ SameDisplay s t ∧ SameTimers s t) ∧
  (∀ (first : Addr) (targets : List Addr) (s : State) (h : targets.length = 16),
    ∃ t, execAll (.call first :: (targets.map .call ++ List.replicate 16 .ret)) s = .next t ∧
      t.pc = first.setWidth 16 ∧ t.sp = s.sp + 1 ∧ t.slot (s.sp + 2) = first.setWidth 16 ∧
      (∀ (k : Nat) (hk : k < 15), t.slot (s.sp + 3 + BitVec.ofNat 4 k) = targets[k].setWidth 16) ∧
      t.slot (s.sp + 1) = targets[14].setWidth 16 ∧
      ∃ u, exec .ret t = .next u ∧ u.pc = targets[14].setWidth 16 ∧ u.sp = s.sp)

/-- The stack pointer counts: after any sequence of handlers `SP` is up by the number of calls and down by the number
of returns, modulo 16, whatever their order and whatever else is among them (R118(b)). -/
def Obligations.StackPointerCounts : Prop :=
  ∀ (is : List Instr) (s : State), ∃ t, execAll is s = .next t ∧
    t.sp = s.sp + BitVec.ofNat 4 (is.filter isCall).length - BitVec.ofNat 4 (is.filter isRet).length

/-! ### Loads, ALU, random -/

/-- `ADD Vx, kk` (R121): the sum modulo 256, no flag. -/
def Obligations.AddImmediateWrapsWithoutFlag : Prop :=
  ∀ (x : Nibble) (kk : Byte), decode (wordXkk 0x7000 x kk) = .addImm x kk ∧
    ∀ s : State, ∃ t, exec (.addImm x kk) s = .next t ∧
      (t.reg x).toNat = ((s.reg x).toNat + kk.toNat) % 256 ∧ OnlyRegs [x] s t

/-- `LD Vx, kk`, `LD Vx, Vy`, `OR`, `AND`, `XOR` (R120, R122 to R125): the destination and nothing else. That the
flag register is left alone is the spec's D8 (log entry 12); the `op4` numbers its D6 and the operand roles of the
last four its G8 (log entries 10, 23). -/
def Obligations.LoadsAndLogicWriteOneRegister : Prop :=
  (∀ (x : Nibble) (kk : Byte) (s : State), decode (wordXkk 0x6000 x kk) = .ldImm x kk ∧
    ∃ t, exec (.ldImm x kk) s = .next t ∧ t.reg x = kk ∧ OnlyRegs [x] s t) ∧
  (∀ (x y : Nibble) (s : State), decode (wordXy 0x8000 x y) = .ldReg x y ∧ decode (wordXy 0x8001 x y) = .or x y ∧
    decode (wordXy 0x8002 x y) = .and x y ∧ decode (wordXy 0x8003 x y) = .xor x y ∧
    (∃ t, exec (.ldReg x y) s = .next t ∧ t.reg x = s.reg y ∧ OnlyRegs [x] s t) ∧
    (∃ t, exec (.or x y) s = .next t ∧ t.reg x = s.reg x ||| s.reg y ∧ OnlyRegs [x] s t) ∧
    (∃ t, exec (.and x y) s = .next t ∧ t.reg x = s.reg x &&& s.reg y ∧ OnlyRegs [x] s t) ∧
    (∃ t, exec (.xor x y) s = .next t ∧ t.reg x = s.reg x ^^^ s.reg y ∧ OnlyRegs [x] s t))

/-- `ADD Vx, Vy` (R126): the sum modulo 256 and the carry. For `x` = 15 the result stands in the flag register: the
spec's D7 (R132, U1; log entry 11). -/
def Obligations.AddSetsCarry : Prop :=
  ∀ (x y : Nibble), decode (wordXy 0x8004 x y) = .addReg x y ∧
    ∀ s : State, ∃ t, exec (.addReg x y) s = .next t ∧
      (t.reg x).toNat = ((s.reg x).toNat + (s.reg y).toNat) % 256 ∧
      (x ≠ 15 → (t.reg 15).toNat = if (s.reg x).toNat + (s.reg y).toNat > 255 then 1 else 0) ∧ OnlyRegs [x, 15] s t

/-- `SUB Vx, Vy` and `SUBN Vx, Vy` (R127, R129): the difference modulo 256, and the flag 1 exactly where the minuend
is STRICTLY greater. For `x` = 15 the result stands in the flag register: the spec's D7 (log entry 11); the `op4`
numbers are its D6 (log entry 10). -/
def Obligations.SubtractFlagsStrictlyGreater : Prop :=
  ∀ (x y : Nibble), decode (wordXy 0x8005 x y) = .sub x y ∧ decode (wordXy 0x8007 x y) = .subn x y ∧
    ∀ s : State,
    (∃ t, exec (.sub x y) s = .next t ∧
      (t.reg x).toNat = (256 + (s.reg x).toNat - (s.reg y).toNat) % 256 ∧
      (x ≠ 15 → (t.reg 15).toNat = if (s.reg x).toNat > (s.reg y).toNat then 1 else 0) ∧ OnlyRegs [x, 15] s t) ∧
    (∃ t, exec (.subn x y) s = .next t ∧
      (t.reg x).toNat = (256 + (s.reg y).toNat - (s.reg x).toNat) % 256 ∧
      (x ≠ 15 → (t.reg 15).toNat = if (s.reg y).toNat > (s.reg x).toNat then 1 else 0) ∧ OnlyRegs [x, 15] s t)

/-- `SHR Vx` and `SHL Vx` (R128, R130): by one bit, zero filled, the bit driven out in the flag register, whatever
`y` is. For `x` = 15 the result stands in the flag register: the spec's D7 (log entry 11); the `op4` number of SHR is
its D6 (log entry 10). -/
def Obligations.ShiftsCatchTheBitDrivenOut : Prop :=
  ∀ (x y : Nibble), decode (wordXy 0x8006 x y) = .shr x y ∧ decode (wordXy 0x800E x y) = .shl x y ∧
    ∀ s : State,
    (∃ t, exec (.shr x y) s = .next t ∧ (t.reg x).toNat = (s.reg x).toNat / 2 ∧
      (x ≠ 15 → (t.reg 15).toNat = (s.reg x).toNat % 2) ∧ OnlyRegs [x, 15] s t) ∧
    (∃ t, exec (.shl x y) s = .next t ∧ (t.reg x).toNat = (s.reg x).toNat * 2 % 256 ∧
      (x ≠ 15 → (t.reg 15).toNat = (s.reg x).toNat / 128) ∧ OnlyRegs [x, 15] s t)

/-- `RND Vx, kk` (R131): the byte presented at `rand`, for every byte, masked; a submask of `kk` whatever the byte
is. The free input is the spec's D17, its form the model's (log entry 2); that the flag register is left alone is
the spec's D8 (log entry 12). -/
def Obligations.RandomByteIsMasked : Prop :=
  ∀ (x : Nibble) (kk : Byte), decode (wordXkk 0xC000 x kk) = .rnd x kk ∧
    ∀ s : State, ∃ t, exec (.rnd x kk) s = .next t ∧ (∀ b, s.rand = some b → t.reg x = b &&& kk) ∧
      t.reg x &&& ~~~kk = 0 ∧ OnlyRegs [x] s t

/-- A handler other than RND ignores the input `rand`: two states that differ only there answer states that differ
only there (R35). -/
def Obligations.OnlyRndReadsRand : Prop :=
  ∀ (i : Instr) (s : State) (r : Option Byte) (d : Nat), (∀ x kk, i ≠ .rnd x kk) →
    ∃ t, exec i s = .next t ∧ exec i { s with rand := r, draws := d } = .next { t with rand := r, draws := d }

/-! ### Index and memory -/

/-- `MemWrite(a, 1, v)` sets the one byte and changes nothing else (R55). -/
def Obligations.MemoryWriteSetsOneByte : Prop :=
  ∀ (s : State) (a : Addr) (v : Byte), (s.writeByte a v).readByte a = v ∧ OnlyBytes [a] s (s.writeByte a v)

/-- `LD I, nnn` (R140). -/
def Obligations.LoadIndexZeroExtends : Prop :=
  ∀ nnn : Addr, decode (wordNnn 0xA000 nnn) = .ldI nnn ∧
    ∀ s : State, ∃ t, exec (.ldI nnn) s = .next t ∧ t.i.toNat = nnn.toNat ∧ OnlyIndex s t

/-- `ADD I, Vx` (R141): the 16-bit sum, not reduced before the next step; from a masked `I` it is exact, at most
4350. That no flag is written is the spec's D16 (log entry 12). -/
def Obligations.AddIndexKeepsTheCarry : Prop :=
  ∀ x : Nibble, decode (wordX 0xF01E x) = .addI x ∧
    ∀ s : State, ∃ t, exec (.addI x) s = .next t ∧ t.i.toNat = (s.i.toNat + (s.reg x).toNat) % 65536 ∧
      (s.i.toNat ≤ 4095 → t.i.toNat = s.i.toNat + (s.reg x).toNat) ∧ OnlyIndex s t

/-- `LD F, Vx` (R142): five times the whole byte, exactly: the spec's D14 above 51 (log entry 17). -/
def Obligations.GlyphAddressIsFiveTimes : Prop :=
  ∀ x : Nibble, decode (wordX 0xF029 x) = .ldF x ∧
    ∀ s : State, ∃ t, exec (.ldF x) s = .next t ∧ t.i.toNat = 5 * (s.reg x).toNat ∧ OnlyIndex s t

/-- `LD B, Vx` (R143): the three decimal digits at `EA(I, 0)`, `EA(I, 1)`, `EA(I, 2)`, and no other byte;
`I` stays. That it stays is the spec's D15 (R146, log entry 18). -/
def Obligations.StoreDecimalDigits : Prop :=
  ∀ x : Nibble, decode (wordX 0xF033 x) = .ldB x ∧
    ∀ s : State, ∃ t, exec (.ldB x) s = .next t ∧
      (t.readByte (ea s.i 0)).toNat = (s.reg x).toNat / 100 ∧
      (t.readByte (ea s.i 1)).toNat = (s.reg x).toNat / 10 % 10 ∧
      (t.readByte (ea s.i 2)).toNat = (s.reg x).toNat % 10 ∧ OnlyBytes [ea s.i 0, ea s.i 1, ea s.i 2] s t

/-- `LD [I], Vx` (R144): `V[0]` to `V[x]` at `EA(I, 0)` to `EA(I, x)`, wrapped, and no other byte; `I` stays. That
it stays is the spec's D15 (R146, log entry 18). -/
def Obligations.StoreRegisterBlock : Prop :=
  ∀ x : Nibble, decode (wordX 0xF055 x) = .ldMemVx x ∧
    ∀ s : State, ∃ t, exec (.ldMemVx x) s = .next t ∧
      (∀ k : Nibble, k ≤ x → t.readByte (ea s.i k.toNat) = s.reg k) ∧
      OnlyBytes ((List.range (x.toNat + 1)).map (ea s.i)) s t

/-- `LD Vx, [I]` (R145): `V[0]` to `V[x]` from `EA(I, 0)` to `EA(I, x)`, and no other register; `I` stays. That the
addresses wrap and that `I` stays is the spec's D15 (R146, log entry 18). -/
def Obligations.LoadRegisterBlock : Prop :=
  ∀ x : Nibble, decode (wordX 0xF065 x) = .ldVxMem x ∧
    ∀ s : State, ∃ t, exec (.ldVxMem x) s = .next t ∧
      (∀ k : Nibble, k ≤ x → t.reg k = s.readByte (ea s.i k.toNat)) ∧
      OnlyRegs ((List.range (x.toNat + 1)).map (BitVec.ofNat 4)) s t

/-- A block store and then a block load of the same registers from the same `I` restores them, whatever happened in
between to anything but `I` and memory (R145's last corner case; wrapping loads are the spec's D15, log entry 18). -/
def Obligations.BlockLoadRestoresBlockStore : Prop :=
  ∀ (x : Nibble) (s t u w : State), exec (.ldMemVx x) s = .next t → u.i = s.i → SameMemory t u →
    exec (.ldVxMem x) u = .next w → ∀ k : Nibble, k ≤ x → w.reg k = s.reg k

/-- A store is seen by the next fetch: two registers stored where `PC` points are the word fetched there, `V[0]` its
high byte (R57, R65; that the very next fetch sees it is the spec's D23, that `PC` may be odd its D22, log
entry 21). -/
def Obligations.StoredWordIsFetched : Prop :=
  ∀ (x : Nibble) (s t : State), 1 ≤ x.toNat → exec (.ldMemVx x) s = .next t → t.pc = s.i → s.i.toNat < 4095 →
    t.fetchWord = some (s.reg 0 ++ s.reg 1)

/-! ### Display -/

/-- `CLS` (R150): all 4096 pixels off, nothing else. That there are 64 rows, 32 to 63 among them, is the spec's D24
(log entry 22). -/
def Obligations.ClearTurnsEveryPixelOff : Prop :=
  decode 0x00E0 = .cls ∧
  ∀ s : State, ∃ t, exec .cls s = .next t ∧ (∀ r c, t.pixel r c = false) ∧ SameRegsBut [] s t ∧ t.i = s.i ∧
    t.pc = s.pc ∧ SameStack s t ∧ SameTimers s t ∧ SameMemory s t ∧ SameRest s t ∧ t.events = s.events

/-- `DRW Vx, Vy, n` (R151, in the closed form of R152(a)): every pixel is its old value exclusive-or the sprite over
it, the flag register is 1 exactly where a lit pixel was under a set bit and else 0, and nothing else changes. The bit
order is the spec's D9 (log entry 13), the origin for `x` or `y` = 15 its D31 (log entry 11), that `I` stays its D15
(R146, log entry 18), that there are 64 rows and a row wraps modulo 64 its D24 (log entry 22), the optional event the
model's (log entry 4). -/
def Obligations.DrawXorsTheSprite : Prop :=
  ∀ (x y n : Nibble), decode (wordXyn 0xD000 x y n) = .drw x y n ∧
    ∀ s : State, ∃ t, exec (.drw x y n) s = .next t ∧
      (∀ r c, t.pixel r c = (s.pixel r c ^^ spriteOver s (s.reg x) (s.reg y) n.toNat r c)) ∧
      ((∃ r c, s.pixel r c = true ∧ spriteOver s (s.reg x) (s.reg y) n.toNat r c = true) → t.reg 15 = 1) ∧
      ((¬ ∃ r c, s.pixel r c = true ∧ spriteOver s (s.reg x) (s.reg y) n.toNat r c = true) → t.reg 15 = 0) ∧
      SameRegsBut [15] s t ∧ t.i = s.i ∧ t.pc = s.pc ∧ SameStack s t ∧ SameTimers s t ∧ SameMemory s t ∧
      SameRest s t ∧ t.events = s.events ++ (if s.params.optionalEvents = true then [.drawInvoked] else [])

/-- Drawing the same sprite twice at the same place restores the display, and the second draw reports a collision
exactly where the first turned a pixel on (R152(b)). "The same" is a premise: origin registers, `I` and memory as
before the first draw, the display as it left it. The first draw keeps them itself unless `x` or `y` is 15, where
the flag replaces the origin: there the premise asks that the register has its old value again. That there are
64 rows is the spec's D24 (log entry 22). -/
def Obligations.DrawTwiceRestores : Prop :=
  ∀ (x y n : Nibble) (s t u w : State), exec (.drw x y n) s = .next t → u.reg x = s.reg x → u.reg y = s.reg y →
    u.i = s.i → SameMemory s u → SameDisplay t u → exec (.drw x y n) u = .next w →
    SameDisplay s w ∧ (w.reg 15 = 1 ↔ ∃ r c, s.pixel r c = false ∧ t.pixel r c = true) ∧
    (w.reg 15 = 0 ∨ w.reg 15 = 1)

/-! ### Keypad and timers -/

/-- `SKP Vx` and `SKNP Vx` on a key index 0 to 15 (R160, R161): SKNP tests as SKP does where `SKNP_NEGATED` is false
and the opposite where it is true (the spec's parameter, D13, log entry 16). -/
def Obligations.KeySkipsTestTheKey : Prop :=
  ∀ x : Nibble, decode (wordX 0xE09E x) = .skp x ∧ decode (wordX 0xE0A1 x) = .sknp x ∧
    ∀ (s : State) (k : Nibble), (s.reg x).toNat = k.toNat →
    (∃ t, exec (.skp x) s = .next t ∧ OnlyPc s t ∧ t.pc = if s.keyDown k = true then s.pc + 2 else s.pc) ∧
    (∃ t, exec (.sknp x) s = .next t ∧ OnlyPc s t ∧
      t.pc = if s.keyDown k = !s.params.sknpNegated then s.pc + 2 else s.pc)

/-- A step that executes SKP or SKNP with a register above 15 changes nothing but `RUN` (R160, R161, R167, R99; the
fault is the spec's D11, log entry 14, the discarded step its D3, log entry 7). -/
def Obligations.KeyIndexFaultDiscardsTheStep : Prop :=
  ∀ (s : State) (x : Nibble), s.Executes (.skp x) ∨ s.Executes (.sknp x) → 15 < (s.reg x).toNat →
    step s = .next { s with run := .faulted (.keyIndexOutOfRange (s.reg x)) }

/-- `LD Vx, DT`, `LD DT, Vx`, `LD ST, Vx` (R162 to R164): the one register each writes. -/
def Obligations.TimerMovesWriteOneRegister : Prop :=
  ∀ x : Nibble, decode (wordX 0xF007 x) = .ldVxDt x ∧ decode (wordX 0xF015 x) = .ldDtVx x ∧
    decode (wordX 0xF018 x) = .ldStVx x ∧ ∀ s : State,
    (∃ t, exec (.ldVxDt x) s = .next t ∧ t.reg x = s.dt ∧ OnlyRegs [x] s t) ∧
    (∃ t, exec (.ldDtVx x) s = .next t ∧ t.dt = s.reg x ∧ t.st = s.st ∧ OnlyTimers s t) ∧
    (∃ t, exec (.ldStVx x) s = .next t ∧ t.st = s.reg x ∧ t.dt = s.dt ∧ OnlyTimers s t)

/-- The step that sets or reads the delay timer, the tick included (R162, R163, R98): in a step in which `SC` returns
to 0 the timer ends one below the value written, or at 0, and a read gives the value before the decrement. The phase
is the spec's D4 (log entry 8). -/
def Obligations.DelayTimerOnATickStep : Prop :=
  (∀ (s : State) (x : Nibble), s.Executes (.ldDtVx x) →
    ∃ t, step s = .next t ∧ t.dt.toNat = (if s.sc = 15 then (s.reg x).toNat - 1 else (s.reg x).toNat)) ∧
  (∀ (s : State) (x : Nibble), s.Executes (.ldVxDt x) →
    ∃ t, step s = .next t ∧ t.reg x = s.dt ∧ t.dt.toNat = (if s.sc = 15 then s.dt.toNat - 1 else s.dt.toNat))

/-- `LD Vx, K` (R165): nothing at all with `KEYWAIT_BLOCKING` false, and with it true only `RUN` changes (the spec's
parameter, D12, log entry 15). -/
def Obligations.KeyWaitIsNoOpOrSuspends : Prop :=
  ∀ x : Nibble, decode (wordX 0xF00A x) = .ldVxK x ∧ ∀ s : State,
    (s.params.keywaitBlocking = false → exec (.ldVxK x) s = .next s) ∧
    (s.params.keywaitBlocking = true → exec (.ldVxK x) s = .next { s with run := .awaitingKey x })

/-! ### Whole-machine rules: who may write what -/

/-- A general register changes only as a destination the instruction names, or as the flag register in one of the
six flag-setting instructions (R21, R22; the silence on LD, OR, AND, XOR is the spec's D8, log entry 12, and
their destination its G8, log entry 23). -/
def Obligations.RegisterWriters : Prop :=
  ∀ (i : Instr) (s t : State) (r : Nibble), exec i s = .next t → t.reg r ≠ s.reg r →
    writesReg i r = true ∨ (r = 15 ∧ setsFlag i = true)

/-- `I` is written by LD I, ADD I and LD F alone (R23, R146; for Fx55 and Fx65 the spec's D15, log entry 18). -/
def Obligations.IndexWriters : Prop :=
  ∀ (i : Instr) (s t : State), exec i s = .next t → t.i ≠ s.i →
    (∃ nnn, i = .ldI nnn) ∨ (∃ x, i = .addI x) ∨ (∃ x, i = .ldF x)

/-- Memory is written by LD B and LD [I] alone (R60), and the display by CLS and DRW alone (R152(e)). -/
def Obligations.MemoryAndDisplayWriters : Prop :=
  ∀ (i : Instr) (s t : State), exec i s = .next t →
    (¬ SameMemory s t → (∃ x, i = .ldB x) ∨ (∃ x, i = .ldMemVx x)) ∧
    (¬ SameDisplay s t → i = .cls ∨ ∃ x y n, i = .drw x y n)

/-- `PC` is replaced by the control transfers and skips alone, `SP` by CALL and RET alone, a slot by CALL alone
(R24, R25, R26, R118(d)). -/
def Obligations.ControlWriters : Prop :=
  ∀ (i : Instr) (s t : State), exec i s = .next t →
    (t.pc ≠ s.pc → writesPc i = true) ∧ (t.sp ≠ s.sp → i = .ret ∨ ∃ nnn, i = .call nnn) ∧
    ((∃ k, t.slot k ≠ s.slot k) → ∃ nnn, i = .call nnn)

/-- `DT` is written by LD DT, Vx alone, `ST` by LD ST, Vx alone, `SC` by no handler; `RUN` by the key skips and
LD Vx, K alone; the keypad by none (R27 to R29, R32, R33; what the key skips do to `RUN` is the fault of the spec's
D11, log entry 14). The model's own fields for the parameters and for the input `rand` with its counter are written by
no handler either (R7, R35; their places in State are log entries 1 and 2). -/
def Obligations.TimerRunAndKeyWriters : Prop :=
  ∀ (i : Instr) (s t : State), exec i s = .next t →
    (t.dt ≠ s.dt → ∃ x, i = .ldDtVx x) ∧ (t.st ≠ s.st → ∃ x, i = .ldStVx x) ∧ t.sc = s.sc ∧
    (t.run ≠ s.run → (∃ x, i = .skp x) ∨ (∃ x, i = .sknp x) ∨ ∃ x, i = .ldVxK x) ∧ t.key = s.key ∧
    t.params = s.params ∧ t.rand = s.rand ∧ t.draws = s.draws

/-- A handler other than the key skips ignores the keypad: two states that differ only there answer states that
differ only there (R32, R175). -/
def Obligations.OnlyKeySkipsReadKeys : Prop :=
  ∀ (i : Instr) (s : State) (keys : Vector Bool 16), (∀ x, i ≠ .skp x) → (∀ x, i ≠ .sknp x) →
    ∃ t, exec i s = .next t ∧ exec i { s with key := keys } = .next { t with key := keys }

/-- No step changes `ST` but one that executes LD ST, Vx (R28), and no step touches the keypad (R32). Nor does one touch
the parameters (R7), which the model holds in State (log entry 1). -/
def Obligations.SoundTimerNeverRunsDown : Prop :=
  ∀ s t : State, step s = .next t →
    (t.st ≠ s.st → ∃ x, s.Executes (.ldStVx x)) ∧ t.key = s.key ∧ t.params = s.params

/-! ### The invariant -/

/-- The invariant holds after reset, with any parameters (the canonical form of memory is the model's, log
entry 26). -/
def Obligations.ResetMeetsInvariant : Prop :=
  (State.reset).Inv ∧ ∀ p : Config.Params, (State.resetWith p).Inv

/-- Every step keeps the invariant: memory canonical (a form of the model's own, log entry 26), `I` at most 4350
(R23), `PC` at most 0x10FE (R24), every slot at most 4096 (R24, R25), and a key wait only where Fx0A blocks (R33). -/
def Obligations.StepKeepsInvariant : Prop :=
  ∀ s t : State, s.Inv → step s = .next t → t.Inv

/-- Every state that the host and the core reach from a launch meets the invariant, whatever the host does between
steps (R23, R24, R194; the form of the host's moves and of memory is the model's, log entry 26). -/
def Obligations.ReachableStatesMeetInvariant : Prop :=
  ∀ (p : Config.Params) (image : List Byte) (ms : List HostMove), ((State.launch p image).moves ms).Inv

/-! ### Encoding -/

/-- Decoding the word of a well-formed instruction gives it back, every operand at every value (R71, R75, R81). -/
def Obligations.DecodeEncode : Prop := ∀ i : Instr, i.wellFormed = true → decode (encode i) = i

/-- Every one of the 65536 words decodes to a well-formed instruction that encodes to the word again (R74, R77). The
`y` field that SHR and SHL ignore is kept (R128, R130). Which 8xy words are unknown is the spec's D6 (log entry 10). -/
def Obligations.EncodeDecode : Prop := ∀ w : Word, (decode w).wellFormed = true ∧ encode (decode w) = w

/-- The decoder is the mask-and-match map: a word matches row `j` exactly where it decodes to that row's instruction
(R75; seven of the `op4` numbers are the spec's D6, log entry 10). -/
def Obligations.DecoderFollowsOpcodeMap : Prop :=
  ∀ (w : Word) (j : Nat) (mask pat : Word), opcodeMap[j]? = some (mask, pat) →
    (w &&& mask = pat ↔ (decode w).row = j)

/-- The unknown space: a word decodes to UNKNOWN, itself the operand, exactly where R77's table lists it.
That the 8xyN with N 8 to D and F are in it is the spec's D6 (R76, log entry 10). -/
def Obligations.UnknownSpace : Prop := ∀ w : Word, decode w = .unknown w ↔ unknownWord w = true

/-- The decoder reads the words that the source's own examples give (95_test_vectors.md S1, S2, S11): 600A, 6105,
8014, A000, F029, and 0000, which is unknown (C3). -/
def Obligations.SourceWordsDecode : Prop :=
  decode 0x600A = .ldImm 0 10 ∧ decode 0x6105 = .ldImm 1 5 ∧ decode 0x8014 = .addReg 0 1 ∧
  decode 0xA000 = .ldI 0 ∧ decode 0xF029 = .ldF 0 ∧ decode 0x0000 = .unknown 0x0000

/-! ### Reset, load, and the placing of a word -/

/-- What reset leaves (R39, R190), from any state: every register, slot, timer and counter 0, `PC` 0x200, the display
dark, the glyph table at 0x000 to 0x04F and 0 above. The keypad and the run state are the spec's D18 (log entry 19);
that memory from 0x050 to 0x1FF is 0 is its D32 and that the dark display has 64 rows its D24 (log entry 22); the
glyph table is a parameter (log entry 1); that the parameters, `rand`, `draws` and the events not yet taken stand is
the model's (log entry 26). -/
def Obligations.ResetValues : Prop :=
  ∀ s : State, (∀ r, s.hostReset.reg r = 0) ∧ s.hostReset.i = 0 ∧ s.hostReset.pc = 0x200 ∧
    (∀ k, s.hostReset.slot k = 0) ∧ s.hostReset.sp = 0 ∧ s.hostReset.dt = 0 ∧ s.hostReset.st = 0 ∧
    s.hostReset.sc = 0 ∧ (∀ r c, s.hostReset.pixel r c = false) ∧
    (∀ (a : Nat) (h : a < 80), s.hostReset.readByte (BitVec.ofNat 12 a) = s.params.glyph[a]) ∧
    (∀ a : Nat, 80 ≤ a → a < 4096 → s.hostReset.readByte (BitVec.ofNat 12 a) = 0) ∧
    (∀ k, s.hostReset.keyDown k = false) ∧ s.hostReset.run = .running ∧ s.hostReset.params = s.params ∧
    s.hostReset.rand = s.rand ∧ s.hostReset.draws = s.draws ∧ s.hostReset.events = s.events

/-- Loading an image of at most 3584 bytes (R191, R192): its bytes from 0x200 upward, every other byte and all else
as reset left it. -/
def Obligations.LoadWritesTheImage : Prop :=
  ∀ (p : Config.Params) (image : List Byte), image.length ≤ 3584 →
    (∀ (k : Nat) (h : k < image.length), (State.launch p image).readByte (BitVec.ofNat 12 (0x200 + k)) = image[k]) ∧
    (∀ a : Addr, a.toNat < 0x200 ∨ 0x200 + image.length ≤ a.toNat →
      (State.launch p image).readByte a = (State.resetWith p).readByte a) ∧
    { State.launch p image with mem := [] } = State.resetWith p

/-- Loading more than 3584 bytes raises `LoadOverflow` and writes nothing, and the machine is then frozen (R172, R191;
the spec's D19, log entry 20; that it is frozen is its D3, log entry 7). -/
def Obligations.LoadOverflowWritesNothing : Prop :=
  ∀ (p : Config.Params) (image : List Byte), 3584 < image.length →
    State.launch p image = { State.resetWith p with run := .faulted (.loadOverflow image.length) } ∧
    step (State.launch p image) = .next (State.launch p image)

/-- A word placed for the next fetch is the word the next step fetches and runs, in any state; the table's decoder and
the step's agree on it; and only the two bytes at `PC`, and `PC` and `RUN` where a fetch needs it, are changed
(R56, R81; log entry 24; that an odd `PC` is fetched from as it stands is the spec's D22, log entry 21). -/
def Obligations.PlacedWordIsFetched : Prop :=
  ∀ (s : State) (nbits w : Nat), nbits ≤ 16 →
    (s.withFetchWord nbits w).run = .running ∧
    (s.withFetchWord nbits w).fetchWord = some (BitVec.ofNat 16 (w % 2 ^ nbits)) ∧
    decodeTableWord nbits w = some (decode (BitVec.ofNat 16 (w % 2 ^ nbits))) ∧
    (s.pc.toNat < 4095 → (s.withFetchWord nbits w).pc = s.pc) ∧
    (∀ a : Addr, a.toNat ≠ (s.withFetchWord nbits w).pc.toNat → a.toNat ≠ (s.withFetchWord nbits w).pc.toNat + 1 →
      (s.withFetchWord nbits w).readByte a = s.readByte a) ∧
    { s.withFetchWord nbits w with mem := s.mem, pc := s.pc, run := s.run } = s
end

