-- ==== Sys2Proof/Laws/Memory.lean ====
section
/-! SUPPORT. Memory: a read after a write, and that every memory operation keeps the canonical form. -/

namespace Sys2Proof.Machine

/-! ### Reading -/

theorem Mem.find_insert (a k : Nat) (b : Byte) (m : List Host.Cell) :
    Mem.find k (Mem.insert a b m) = if a = k then some b else Mem.find k m := by
  induction m with
  | nil => simp [Mem.insert, Mem.find]
  | cons c m ih =>
    obtain ⟨c1, c2⟩ := c
    simp only [Mem.insert]
    split_ifs with h1 h2 <;> simp only [Mem.find, ih] <;> grind

theorem Mem.find_erase (a k : Nat) (m : List Host.Cell) :
    Mem.find k (Mem.erase a m) = if a = k then none else Mem.find k m := by
  induction m with
  | nil => simp [Mem.erase, Mem.find]
  | cons c m ih =>
    obtain ⟨c1, c2⟩ := c
    simp only [Mem.erase]
    split_ifs with h1 h2 <;> simp only [Mem.find, ih] <;> grind

/-- A byte read after a write: the byte written at its address, the old byte elsewhere. -/
theorem Mem.read_write (g : Config.Glyph) (m : List Host.Cell) (a k : Nat) (b : Byte) :
    Mem.read g (Mem.write g m a b) k = if a = k then b else Mem.read g m k := by
  unfold Mem.read Mem.write
  split_ifs with h1 h2 h2
  · subst h2; simp [Mem.find_erase, h1]
  · simp [Mem.find_erase, h2]
  · simp [Mem.find_insert, h2]
  · simp [Mem.find_insert, h2]

/-! ### The canonical form -/

theorem Mem.risesFrom_insert (lo a : Nat) (b : Byte) (m : List Host.Cell) (h : Mem.risesFrom lo m = true)
    (ha : lo ≤ a) : Mem.risesFrom lo (Mem.insert a b m) = true := by
  induction m generalizing lo with
  | nil => simp [Mem.insert, Mem.risesFrom, ha]
  | cons c m ih =>
    obtain ⟨k, c⟩ := c
    simp only [Mem.risesFrom, Bool.and_eq_true, decide_eq_true_eq] at h
    simp only [Mem.insert]
    split_ifs with h1 h2
    · simp only [Mem.risesFrom, Bool.and_eq_true, decide_eq_true_eq]
      exact ⟨ha, by omega, h.2⟩
    · subst h2
      simp only [Mem.risesFrom, Bool.and_eq_true, decide_eq_true_eq]
      exact ⟨ha, h.2⟩
    · simp only [Mem.risesFrom, Bool.and_eq_true, decide_eq_true_eq]
      exact ⟨h.1, ih (k + 1) h.2 (by omega)⟩

theorem Mem.risesFrom_mono (lo lo' : Nat) (m : List Host.Cell) (h : Mem.risesFrom lo m = true) (hl : lo' ≤ lo) :
    Mem.risesFrom lo' m = true := by
  cases m with
  | nil => rfl
  | cons c m =>
    obtain ⟨k, c⟩ := c
    simp only [Mem.risesFrom, Bool.and_eq_true, decide_eq_true_eq] at h ⊢
    exact ⟨by omega, h.2⟩

theorem Mem.risesFrom_erase (lo a : Nat) (m : List Host.Cell) (h : Mem.risesFrom lo m = true) :
    Mem.risesFrom lo (Mem.erase a m) = true := by
  induction m generalizing lo with
  | nil => rfl
  | cons c m ih =>
    obtain ⟨k, c⟩ := c
    simp only [Mem.risesFrom, Bool.and_eq_true, decide_eq_true_eq] at h
    simp only [Mem.erase]
    split_ifs with h1
    · exact Mem.risesFrom_mono _ _ _ (ih (k + 1) h.2) (by omega)
    · simp only [Mem.risesFrom, Bool.and_eq_true, decide_eq_true_eq]
      exact ⟨h.1, ih (k + 1) h.2⟩

theorem Mem.mem_insert (a : Nat) (b : Byte) (m : List Host.Cell) (c : Host.Cell) (h : c ∈ Mem.insert a b m) :
    c = (a, b) ∨ c ∈ m := by
  induction m with
  | nil => simpa [Mem.insert] using h
  | cons d m ih =>
    obtain ⟨k, d⟩ := d
    simp only [Mem.insert] at h
    split_ifs at h <;> grind

theorem Mem.mem_erase (a : Nat) (m : List Host.Cell) (c : Host.Cell) (h : c ∈ Mem.erase a m) : c ∈ m := by
  induction m with
  | nil => simp [Mem.erase] at h
  | cons d m ih =>
    obtain ⟨k, d⟩ := d
    simp only [Mem.erase] at h
    split_ifs at h <;> grind

/-- A write keeps the canonical form. -/
theorem Mem.wf_write (g : Config.Glyph) (m : List Host.Cell) (a : Nat) (b : Byte) (h : Mem.wf g m = true)
    (ha : a < 4096) : Mem.wf g (Mem.write g m a b) = true := by
  simp only [Mem.wf, Bool.and_eq_true, List.all_eq_true, decide_eq_true_eq] at h ⊢
  unfold Mem.write
  split_ifs with h1
  · exact ⟨Mem.risesFrom_erase _ _ _ h.1, fun c hc => h.2 c (Mem.mem_erase _ _ _ hc)⟩
  · refine ⟨Mem.risesFrom_insert _ _ _ _ h.1 (by omega), fun c hc => ?_⟩
    rcases Mem.mem_insert _ _ _ _ hc with rfl | hc
    · exact ⟨ha, h1⟩
    · exact h.2 c hc

/-! ### At the state -/

/-- `MemRead` after `MemWrite` (R55). -/
@[simp] theorem State.readByte_writeByte (s : State) (a k : Addr) (b : Byte) :
    (s.writeByte a b).readByte k = if a = k then b else s.readByte k := by
  simp only [State.readByte, State.writeByte, Mem.read_write, BitVec.toNat_inj]

/-- `MemWrite` keeps the canonical form. -/
theorem State.memWf_writeByte (s : State) (a : Addr) (b : Byte) (h : s.memWf = true) :
    (s.writeByte a b).memWf = true := Mem.wf_write _ _ _ _ h a.isLt

end Sys2Proof.Machine
end

