-- ==== Sys2Proof/Laws/State.lean ====
section
/-! SUPPORT. What each named update does to each field, and to each accessor it leaves alone: all by definition,
all for simp, so that no later proof unfolds a record update. -/

namespace Sys2Proof.Machine

variable (s : State)

/-! ### setReg -/
@[simp] theorem State.setReg_v (x : Nibble) (b : Byte) : (s.setReg x b).v = s.v.set x.toNat b x.isLt := rfl
@[simp] theorem State.setReg_i (x : Nibble) (b : Byte) : (s.setReg x b).i = s.i := rfl
@[simp] theorem State.setReg_pc (x : Nibble) (b : Byte) : (s.setReg x b).pc = s.pc := rfl
@[simp] theorem State.setReg_stack (x : Nibble) (b : Byte) : (s.setReg x b).stack = s.stack := rfl
@[simp] theorem State.setReg_sp (x : Nibble) (b : Byte) : (s.setReg x b).sp = s.sp := rfl
@[simp] theorem State.setReg_dt (x : Nibble) (b : Byte) : (s.setReg x b).dt = s.dt := rfl
@[simp] theorem State.setReg_st (x : Nibble) (b : Byte) : (s.setReg x b).st = s.st := rfl
@[simp] theorem State.setReg_sc (x : Nibble) (b : Byte) : (s.setReg x b).sc = s.sc := rfl
@[simp] theorem State.setReg_disp (x : Nibble) (b : Byte) : (s.setReg x b).disp = s.disp := rfl
@[simp] theorem State.setReg_mem (x : Nibble) (b : Byte) : (s.setReg x b).mem = s.mem := rfl
@[simp] theorem State.setReg_key (x : Nibble) (b : Byte) : (s.setReg x b).key = s.key := rfl
@[simp] theorem State.setReg_run (x : Nibble) (b : Byte) : (s.setReg x b).run = s.run := rfl
@[simp] theorem State.setReg_params (x : Nibble) (b : Byte) : (s.setReg x b).params = s.params := rfl
@[simp] theorem State.setReg_rand (x : Nibble) (b : Byte) : (s.setReg x b).rand = s.rand := rfl
@[simp] theorem State.setReg_draws (x : Nibble) (b : Byte) : (s.setReg x b).draws = s.draws := rfl
@[simp] theorem State.setReg_events (x : Nibble) (b : Byte) : (s.setReg x b).events = s.events := rfl
@[simp] theorem State.setReg_slot (x : Nibble) (b : Byte) (k : Nibble) : (s.setReg x b).slot k = s.slot k := rfl
@[simp] theorem State.setReg_pixel (x : Nibble) (b : Byte) (r' c' : Coord) : (s.setReg x b).pixel r' c' = s.pixel r' c' := rfl
@[simp] theorem State.setReg_keyDown (x : Nibble) (b : Byte) (k : Nibble) : (s.setReg x b).keyDown k = s.keyDown k := rfl
@[simp] theorem State.setReg_readByte (x : Nibble) (b : Byte) (a' : Addr) : (s.setReg x b).readByte a' = s.readByte a' := rfl

/-! ### setIndex -/
@[simp] theorem State.setIndex_v (w : Word) : (s.setIndex w).v = s.v := rfl
@[simp] theorem State.setIndex_i (w : Word) : (s.setIndex w).i = w := rfl
@[simp] theorem State.setIndex_pc (w : Word) : (s.setIndex w).pc = s.pc := rfl
@[simp] theorem State.setIndex_stack (w : Word) : (s.setIndex w).stack = s.stack := rfl
@[simp] theorem State.setIndex_sp (w : Word) : (s.setIndex w).sp = s.sp := rfl
@[simp] theorem State.setIndex_dt (w : Word) : (s.setIndex w).dt = s.dt := rfl
@[simp] theorem State.setIndex_st (w : Word) : (s.setIndex w).st = s.st := rfl
@[simp] theorem State.setIndex_sc (w : Word) : (s.setIndex w).sc = s.sc := rfl
@[simp] theorem State.setIndex_disp (w : Word) : (s.setIndex w).disp = s.disp := rfl
@[simp] theorem State.setIndex_mem (w : Word) : (s.setIndex w).mem = s.mem := rfl
@[simp] theorem State.setIndex_key (w : Word) : (s.setIndex w).key = s.key := rfl
@[simp] theorem State.setIndex_run (w : Word) : (s.setIndex w).run = s.run := rfl
@[simp] theorem State.setIndex_params (w : Word) : (s.setIndex w).params = s.params := rfl
@[simp] theorem State.setIndex_rand (w : Word) : (s.setIndex w).rand = s.rand := rfl
@[simp] theorem State.setIndex_draws (w : Word) : (s.setIndex w).draws = s.draws := rfl
@[simp] theorem State.setIndex_events (w : Word) : (s.setIndex w).events = s.events := rfl
@[simp] theorem State.setIndex_reg (w : Word) (x' : Nibble) : (s.setIndex w).reg x' = s.reg x' := rfl
@[simp] theorem State.setIndex_slot (w : Word) (k : Nibble) : (s.setIndex w).slot k = s.slot k := rfl
@[simp] theorem State.setIndex_pixel (w : Word) (r' c' : Coord) : (s.setIndex w).pixel r' c' = s.pixel r' c' := rfl
@[simp] theorem State.setIndex_keyDown (w : Word) (k : Nibble) : (s.setIndex w).keyDown k = s.keyDown k := rfl
@[simp] theorem State.setIndex_readByte (w : Word) (a' : Addr) : (s.setIndex w).readByte a' = s.readByte a' := rfl

/-! ### setPc -/
@[simp] theorem State.setPc_v (w : Word) : (s.setPc w).v = s.v := rfl
@[simp] theorem State.setPc_i (w : Word) : (s.setPc w).i = s.i := rfl
@[simp] theorem State.setPc_pc (w : Word) : (s.setPc w).pc = w := rfl
@[simp] theorem State.setPc_stack (w : Word) : (s.setPc w).stack = s.stack := rfl
@[simp] theorem State.setPc_sp (w : Word) : (s.setPc w).sp = s.sp := rfl
@[simp] theorem State.setPc_dt (w : Word) : (s.setPc w).dt = s.dt := rfl
@[simp] theorem State.setPc_st (w : Word) : (s.setPc w).st = s.st := rfl
@[simp] theorem State.setPc_sc (w : Word) : (s.setPc w).sc = s.sc := rfl
@[simp] theorem State.setPc_disp (w : Word) : (s.setPc w).disp = s.disp := rfl
@[simp] theorem State.setPc_mem (w : Word) : (s.setPc w).mem = s.mem := rfl
@[simp] theorem State.setPc_key (w : Word) : (s.setPc w).key = s.key := rfl
@[simp] theorem State.setPc_run (w : Word) : (s.setPc w).run = s.run := rfl
@[simp] theorem State.setPc_params (w : Word) : (s.setPc w).params = s.params := rfl
@[simp] theorem State.setPc_rand (w : Word) : (s.setPc w).rand = s.rand := rfl
@[simp] theorem State.setPc_draws (w : Word) : (s.setPc w).draws = s.draws := rfl
@[simp] theorem State.setPc_events (w : Word) : (s.setPc w).events = s.events := rfl
@[simp] theorem State.setPc_reg (w : Word) (x' : Nibble) : (s.setPc w).reg x' = s.reg x' := rfl
@[simp] theorem State.setPc_slot (w : Word) (k : Nibble) : (s.setPc w).slot k = s.slot k := rfl
@[simp] theorem State.setPc_pixel (w : Word) (r' c' : Coord) : (s.setPc w).pixel r' c' = s.pixel r' c' := rfl
@[simp] theorem State.setPc_keyDown (w : Word) (k : Nibble) : (s.setPc w).keyDown k = s.keyDown k := rfl
@[simp] theorem State.setPc_readByte (w : Word) (a' : Addr) : (s.setPc w).readByte a' = s.readByte a' := rfl

/-! ### setDelay -/
@[simp] theorem State.setDelay_v (b : Byte) : (s.setDelay b).v = s.v := rfl
@[simp] theorem State.setDelay_i (b : Byte) : (s.setDelay b).i = s.i := rfl
@[simp] theorem State.setDelay_pc (b : Byte) : (s.setDelay b).pc = s.pc := rfl
@[simp] theorem State.setDelay_stack (b : Byte) : (s.setDelay b).stack = s.stack := rfl
@[simp] theorem State.setDelay_sp (b : Byte) : (s.setDelay b).sp = s.sp := rfl
@[simp] theorem State.setDelay_dt (b : Byte) : (s.setDelay b).dt = b := rfl
@[simp] theorem State.setDelay_st (b : Byte) : (s.setDelay b).st = s.st := rfl
@[simp] theorem State.setDelay_sc (b : Byte) : (s.setDelay b).sc = s.sc := rfl
@[simp] theorem State.setDelay_disp (b : Byte) : (s.setDelay b).disp = s.disp := rfl
@[simp] theorem State.setDelay_mem (b : Byte) : (s.setDelay b).mem = s.mem := rfl
@[simp] theorem State.setDelay_key (b : Byte) : (s.setDelay b).key = s.key := rfl
@[simp] theorem State.setDelay_run (b : Byte) : (s.setDelay b).run = s.run := rfl
@[simp] theorem State.setDelay_params (b : Byte) : (s.setDelay b).params = s.params := rfl
@[simp] theorem State.setDelay_rand (b : Byte) : (s.setDelay b).rand = s.rand := rfl
@[simp] theorem State.setDelay_draws (b : Byte) : (s.setDelay b).draws = s.draws := rfl
@[simp] theorem State.setDelay_events (b : Byte) : (s.setDelay b).events = s.events := rfl
@[simp] theorem State.setDelay_reg (b : Byte) (x' : Nibble) : (s.setDelay b).reg x' = s.reg x' := rfl
@[simp] theorem State.setDelay_slot (b : Byte) (k : Nibble) : (s.setDelay b).slot k = s.slot k := rfl
@[simp] theorem State.setDelay_pixel (b : Byte) (r' c' : Coord) : (s.setDelay b).pixel r' c' = s.pixel r' c' := rfl
@[simp] theorem State.setDelay_keyDown (b : Byte) (k : Nibble) : (s.setDelay b).keyDown k = s.keyDown k := rfl
@[simp] theorem State.setDelay_readByte (b : Byte) (a' : Addr) : (s.setDelay b).readByte a' = s.readByte a' := rfl

/-! ### setSound -/
@[simp] theorem State.setSound_v (b : Byte) : (s.setSound b).v = s.v := rfl
@[simp] theorem State.setSound_i (b : Byte) : (s.setSound b).i = s.i := rfl
@[simp] theorem State.setSound_pc (b : Byte) : (s.setSound b).pc = s.pc := rfl
@[simp] theorem State.setSound_stack (b : Byte) : (s.setSound b).stack = s.stack := rfl
@[simp] theorem State.setSound_sp (b : Byte) : (s.setSound b).sp = s.sp := rfl
@[simp] theorem State.setSound_dt (b : Byte) : (s.setSound b).dt = s.dt := rfl
@[simp] theorem State.setSound_st (b : Byte) : (s.setSound b).st = b := rfl
@[simp] theorem State.setSound_sc (b : Byte) : (s.setSound b).sc = s.sc := rfl
@[simp] theorem State.setSound_disp (b : Byte) : (s.setSound b).disp = s.disp := rfl
@[simp] theorem State.setSound_mem (b : Byte) : (s.setSound b).mem = s.mem := rfl
@[simp] theorem State.setSound_key (b : Byte) : (s.setSound b).key = s.key := rfl
@[simp] theorem State.setSound_run (b : Byte) : (s.setSound b).run = s.run := rfl
@[simp] theorem State.setSound_params (b : Byte) : (s.setSound b).params = s.params := rfl
@[simp] theorem State.setSound_rand (b : Byte) : (s.setSound b).rand = s.rand := rfl
@[simp] theorem State.setSound_draws (b : Byte) : (s.setSound b).draws = s.draws := rfl
@[simp] theorem State.setSound_events (b : Byte) : (s.setSound b).events = s.events := rfl
@[simp] theorem State.setSound_reg (b : Byte) (x' : Nibble) : (s.setSound b).reg x' = s.reg x' := rfl
@[simp] theorem State.setSound_slot (b : Byte) (k : Nibble) : (s.setSound b).slot k = s.slot k := rfl
@[simp] theorem State.setSound_pixel (b : Byte) (r' c' : Coord) : (s.setSound b).pixel r' c' = s.pixel r' c' := rfl
@[simp] theorem State.setSound_keyDown (b : Byte) (k : Nibble) : (s.setSound b).keyDown k = s.keyDown k := rfl
@[simp] theorem State.setSound_readByte (b : Byte) (a' : Addr) : (s.setSound b).readByte a' = s.readByte a' := rfl

/-! ### push -/
@[simp] theorem State.push_v (w : Word) : (s.push w).v = s.v := rfl
@[simp] theorem State.push_i (w : Word) : (s.push w).i = s.i := rfl
@[simp] theorem State.push_pc (w : Word) : (s.push w).pc = s.pc := rfl
@[simp] theorem State.push_stack (w : Word) : (s.push w).stack = s.stack.set (s.sp + 1).toNat w (s.sp + 1).isLt := rfl
@[simp] theorem State.push_sp (w : Word) : (s.push w).sp = s.sp + 1 := rfl
@[simp] theorem State.push_dt (w : Word) : (s.push w).dt = s.dt := rfl
@[simp] theorem State.push_st (w : Word) : (s.push w).st = s.st := rfl
@[simp] theorem State.push_sc (w : Word) : (s.push w).sc = s.sc := rfl
@[simp] theorem State.push_disp (w : Word) : (s.push w).disp = s.disp := rfl
@[simp] theorem State.push_mem (w : Word) : (s.push w).mem = s.mem := rfl
@[simp] theorem State.push_key (w : Word) : (s.push w).key = s.key := rfl
@[simp] theorem State.push_run (w : Word) : (s.push w).run = s.run := rfl
@[simp] theorem State.push_params (w : Word) : (s.push w).params = s.params := rfl
@[simp] theorem State.push_rand (w : Word) : (s.push w).rand = s.rand := rfl
@[simp] theorem State.push_draws (w : Word) : (s.push w).draws = s.draws := rfl
@[simp] theorem State.push_events (w : Word) : (s.push w).events = s.events := rfl
@[simp] theorem State.push_reg (w : Word) (x' : Nibble) : (s.push w).reg x' = s.reg x' := rfl
@[simp] theorem State.push_pixel (w : Word) (r' c' : Coord) : (s.push w).pixel r' c' = s.pixel r' c' := rfl
@[simp] theorem State.push_keyDown (w : Word) (k : Nibble) : (s.push w).keyDown k = s.keyDown k := rfl
@[simp] theorem State.push_readByte (w : Word) (a' : Addr) : (s.push w).readByte a' = s.readByte a' := rfl

/-! ### popPc -/
@[simp] theorem State.popPc_v : s.popPc.v = s.v := rfl
@[simp] theorem State.popPc_i : s.popPc.i = s.i := rfl
@[simp] theorem State.popPc_pc : s.popPc.pc = s.slot s.sp := rfl
@[simp] theorem State.popPc_stack : s.popPc.stack = s.stack := rfl
@[simp] theorem State.popPc_sp : s.popPc.sp = s.sp - 1 := rfl
@[simp] theorem State.popPc_dt : s.popPc.dt = s.dt := rfl
@[simp] theorem State.popPc_st : s.popPc.st = s.st := rfl
@[simp] theorem State.popPc_sc : s.popPc.sc = s.sc := rfl
@[simp] theorem State.popPc_disp : s.popPc.disp = s.disp := rfl
@[simp] theorem State.popPc_mem : s.popPc.mem = s.mem := rfl
@[simp] theorem State.popPc_key : s.popPc.key = s.key := rfl
@[simp] theorem State.popPc_run : s.popPc.run = s.run := rfl
@[simp] theorem State.popPc_params : s.popPc.params = s.params := rfl
@[simp] theorem State.popPc_rand : s.popPc.rand = s.rand := rfl
@[simp] theorem State.popPc_draws : s.popPc.draws = s.draws := rfl
@[simp] theorem State.popPc_events : s.popPc.events = s.events := rfl
@[simp] theorem State.popPc_reg (x' : Nibble) : s.popPc.reg x' = s.reg x' := rfl
@[simp] theorem State.popPc_slot (k : Nibble) : s.popPc.slot k = s.slot k := rfl
@[simp] theorem State.popPc_pixel (r' c' : Coord) : s.popPc.pixel r' c' = s.pixel r' c' := rfl
@[simp] theorem State.popPc_keyDown (k : Nibble) : s.popPc.keyDown k = s.keyDown k := rfl
@[simp] theorem State.popPc_readByte (a' : Addr) : s.popPc.readByte a' = s.readByte a' := rfl

/-! ### setPixel -/
@[simp] theorem State.setPixel_v (r c : Coord) (b : Bool) : (s.setPixel r c b).v = s.v := rfl
@[simp] theorem State.setPixel_i (r c : Coord) (b : Bool) : (s.setPixel r c b).i = s.i := rfl
@[simp] theorem State.setPixel_pc (r c : Coord) (b : Bool) : (s.setPixel r c b).pc = s.pc := rfl
@[simp] theorem State.setPixel_stack (r c : Coord) (b : Bool) : (s.setPixel r c b).stack = s.stack := rfl
@[simp] theorem State.setPixel_sp (r c : Coord) (b : Bool) : (s.setPixel r c b).sp = s.sp := rfl
@[simp] theorem State.setPixel_dt (r c : Coord) (b : Bool) : (s.setPixel r c b).dt = s.dt := rfl
@[simp] theorem State.setPixel_st (r c : Coord) (b : Bool) : (s.setPixel r c b).st = s.st := rfl
@[simp] theorem State.setPixel_sc (r c : Coord) (b : Bool) : (s.setPixel r c b).sc = s.sc := rfl
@[simp] theorem State.setPixel_mem (r c : Coord) (b : Bool) : (s.setPixel r c b).mem = s.mem := rfl
@[simp] theorem State.setPixel_key (r c : Coord) (b : Bool) : (s.setPixel r c b).key = s.key := rfl
@[simp] theorem State.setPixel_run (r c : Coord) (b : Bool) : (s.setPixel r c b).run = s.run := rfl
@[simp] theorem State.setPixel_params (r c : Coord) (b : Bool) : (s.setPixel r c b).params = s.params := rfl
@[simp] theorem State.setPixel_rand (r c : Coord) (b : Bool) : (s.setPixel r c b).rand = s.rand := rfl
@[simp] theorem State.setPixel_draws (r c : Coord) (b : Bool) : (s.setPixel r c b).draws = s.draws := rfl
@[simp] theorem State.setPixel_events (r c : Coord) (b : Bool) : (s.setPixel r c b).events = s.events := rfl
@[simp] theorem State.setPixel_reg (r c : Coord) (b : Bool) (x' : Nibble) : (s.setPixel r c b).reg x' = s.reg x' := rfl
@[simp] theorem State.setPixel_slot (r c : Coord) (b : Bool) (k : Nibble) : (s.setPixel r c b).slot k = s.slot k := rfl
@[simp] theorem State.setPixel_keyDown (r c : Coord) (b : Bool) (k : Nibble) : (s.setPixel r c b).keyDown k = s.keyDown k := rfl
@[simp] theorem State.setPixel_readByte (r c : Coord) (b : Bool) (a' : Addr) : (s.setPixel r c b).readByte a' = s.readByte a' := rfl

/-! ### clearDisplay -/
@[simp] theorem State.clearDisplay_v : s.clearDisplay.v = s.v := rfl
@[simp] theorem State.clearDisplay_i : s.clearDisplay.i = s.i := rfl
@[simp] theorem State.clearDisplay_pc : s.clearDisplay.pc = s.pc := rfl
@[simp] theorem State.clearDisplay_stack : s.clearDisplay.stack = s.stack := rfl
@[simp] theorem State.clearDisplay_sp : s.clearDisplay.sp = s.sp := rfl
@[simp] theorem State.clearDisplay_dt : s.clearDisplay.dt = s.dt := rfl
@[simp] theorem State.clearDisplay_st : s.clearDisplay.st = s.st := rfl
@[simp] theorem State.clearDisplay_sc : s.clearDisplay.sc = s.sc := rfl
@[simp] theorem State.clearDisplay_mem : s.clearDisplay.mem = s.mem := rfl
@[simp] theorem State.clearDisplay_key : s.clearDisplay.key = s.key := rfl
@[simp] theorem State.clearDisplay_run : s.clearDisplay.run = s.run := rfl
@[simp] theorem State.clearDisplay_params : s.clearDisplay.params = s.params := rfl
@[simp] theorem State.clearDisplay_rand : s.clearDisplay.rand = s.rand := rfl
@[simp] theorem State.clearDisplay_draws : s.clearDisplay.draws = s.draws := rfl
@[simp] theorem State.clearDisplay_events : s.clearDisplay.events = s.events := rfl
@[simp] theorem State.clearDisplay_reg (x' : Nibble) : s.clearDisplay.reg x' = s.reg x' := rfl
@[simp] theorem State.clearDisplay_slot (k : Nibble) : s.clearDisplay.slot k = s.slot k := rfl
@[simp] theorem State.clearDisplay_keyDown (k : Nibble) : s.clearDisplay.keyDown k = s.keyDown k := rfl
@[simp] theorem State.clearDisplay_readByte (a' : Addr) : s.clearDisplay.readByte a' = s.readByte a' := rfl

/-! ### writeByte -/
@[simp] theorem State.writeByte_v (a : Addr) (b : Byte) : (s.writeByte a b).v = s.v := rfl
@[simp] theorem State.writeByte_i (a : Addr) (b : Byte) : (s.writeByte a b).i = s.i := rfl
@[simp] theorem State.writeByte_pc (a : Addr) (b : Byte) : (s.writeByte a b).pc = s.pc := rfl
@[simp] theorem State.writeByte_stack (a : Addr) (b : Byte) : (s.writeByte a b).stack = s.stack := rfl
@[simp] theorem State.writeByte_sp (a : Addr) (b : Byte) : (s.writeByte a b).sp = s.sp := rfl
@[simp] theorem State.writeByte_dt (a : Addr) (b : Byte) : (s.writeByte a b).dt = s.dt := rfl
@[simp] theorem State.writeByte_st (a : Addr) (b : Byte) : (s.writeByte a b).st = s.st := rfl
@[simp] theorem State.writeByte_sc (a : Addr) (b : Byte) : (s.writeByte a b).sc = s.sc := rfl
@[simp] theorem State.writeByte_disp (a : Addr) (b : Byte) : (s.writeByte a b).disp = s.disp := rfl
@[simp] theorem State.writeByte_mem (a : Addr) (b : Byte) : (s.writeByte a b).mem = Mem.write s.params.glyph s.mem a.toNat b := rfl
@[simp] theorem State.writeByte_key (a : Addr) (b : Byte) : (s.writeByte a b).key = s.key := rfl
@[simp] theorem State.writeByte_run (a : Addr) (b : Byte) : (s.writeByte a b).run = s.run := rfl
@[simp] theorem State.writeByte_params (a : Addr) (b : Byte) : (s.writeByte a b).params = s.params := rfl
@[simp] theorem State.writeByte_rand (a : Addr) (b : Byte) : (s.writeByte a b).rand = s.rand := rfl
@[simp] theorem State.writeByte_draws (a : Addr) (b : Byte) : (s.writeByte a b).draws = s.draws := rfl
@[simp] theorem State.writeByte_events (a : Addr) (b : Byte) : (s.writeByte a b).events = s.events := rfl
@[simp] theorem State.writeByte_reg (a : Addr) (b : Byte) (x' : Nibble) : (s.writeByte a b).reg x' = s.reg x' := rfl
@[simp] theorem State.writeByte_slot (a : Addr) (b : Byte) (k : Nibble) : (s.writeByte a b).slot k = s.slot k := rfl
@[simp] theorem State.writeByte_pixel (a : Addr) (b : Byte) (r' c' : Coord) : (s.writeByte a b).pixel r' c' = s.pixel r' c' := rfl
@[simp] theorem State.writeByte_keyDown (a : Addr) (b : Byte) (k : Nibble) : (s.writeByte a b).keyDown k = s.keyDown k := rfl

/-! ### emit -/
@[simp] theorem State.emit_v (e : Event) : (s.emit e).v = s.v := rfl
@[simp] theorem State.emit_i (e : Event) : (s.emit e).i = s.i := rfl
@[simp] theorem State.emit_pc (e : Event) : (s.emit e).pc = s.pc := rfl
@[simp] theorem State.emit_stack (e : Event) : (s.emit e).stack = s.stack := rfl
@[simp] theorem State.emit_sp (e : Event) : (s.emit e).sp = s.sp := rfl
@[simp] theorem State.emit_dt (e : Event) : (s.emit e).dt = s.dt := rfl
@[simp] theorem State.emit_st (e : Event) : (s.emit e).st = s.st := rfl
@[simp] theorem State.emit_sc (e : Event) : (s.emit e).sc = s.sc := rfl
@[simp] theorem State.emit_disp (e : Event) : (s.emit e).disp = s.disp := rfl
@[simp] theorem State.emit_mem (e : Event) : (s.emit e).mem = s.mem := rfl
@[simp] theorem State.emit_key (e : Event) : (s.emit e).key = s.key := rfl
@[simp] theorem State.emit_run (e : Event) : (s.emit e).run = s.run := rfl
@[simp] theorem State.emit_params (e : Event) : (s.emit e).params = s.params := rfl
@[simp] theorem State.emit_rand (e : Event) : (s.emit e).rand = s.rand := rfl
@[simp] theorem State.emit_draws (e : Event) : (s.emit e).draws = s.draws := rfl
@[simp] theorem State.emit_events (e : Event) : (s.emit e).events = s.events ++ [e] := rfl
@[simp] theorem State.emit_reg (e : Event) (x' : Nibble) : (s.emit e).reg x' = s.reg x' := rfl
@[simp] theorem State.emit_slot (e : Event) (k : Nibble) : (s.emit e).slot k = s.slot k := rfl
@[simp] theorem State.emit_pixel (e : Event) (r' c' : Coord) : (s.emit e).pixel r' c' = s.pixel r' c' := rfl
@[simp] theorem State.emit_keyDown (e : Event) (k : Nibble) : (s.emit e).keyDown k = s.keyDown k := rfl
@[simp] theorem State.emit_readByte (e : Event) (a' : Addr) : (s.emit e).readByte a' = s.readByte a' := rfl

/-! ### raise -/
@[simp] theorem State.raise_v (f : Fault) : (s.raise f).v = s.v := rfl
@[simp] theorem State.raise_i (f : Fault) : (s.raise f).i = s.i := rfl
@[simp] theorem State.raise_pc (f : Fault) : (s.raise f).pc = s.pc := rfl
@[simp] theorem State.raise_stack (f : Fault) : (s.raise f).stack = s.stack := rfl
@[simp] theorem State.raise_sp (f : Fault) : (s.raise f).sp = s.sp := rfl
@[simp] theorem State.raise_dt (f : Fault) : (s.raise f).dt = s.dt := rfl
@[simp] theorem State.raise_st (f : Fault) : (s.raise f).st = s.st := rfl
@[simp] theorem State.raise_sc (f : Fault) : (s.raise f).sc = s.sc := rfl
@[simp] theorem State.raise_disp (f : Fault) : (s.raise f).disp = s.disp := rfl
@[simp] theorem State.raise_mem (f : Fault) : (s.raise f).mem = s.mem := rfl
@[simp] theorem State.raise_key (f : Fault) : (s.raise f).key = s.key := rfl
@[simp] theorem State.raise_run (f : Fault) : (s.raise f).run = .faulted f := rfl
@[simp] theorem State.raise_params (f : Fault) : (s.raise f).params = s.params := rfl
@[simp] theorem State.raise_rand (f : Fault) : (s.raise f).rand = s.rand := rfl
@[simp] theorem State.raise_draws (f : Fault) : (s.raise f).draws = s.draws := rfl
@[simp] theorem State.raise_events (f : Fault) : (s.raise f).events = s.events := rfl
@[simp] theorem State.raise_reg (f : Fault) (x' : Nibble) : (s.raise f).reg x' = s.reg x' := rfl
@[simp] theorem State.raise_slot (f : Fault) (k : Nibble) : (s.raise f).slot k = s.slot k := rfl
@[simp] theorem State.raise_pixel (f : Fault) (r' c' : Coord) : (s.raise f).pixel r' c' = s.pixel r' c' := rfl
@[simp] theorem State.raise_keyDown (f : Fault) (k : Nibble) : (s.raise f).keyDown k = s.keyDown k := rfl
@[simp] theorem State.raise_readByte (f : Fault) (a' : Addr) : (s.raise f).readByte a' = s.readByte a' := rfl

/-! ### awaitKey -/
@[simp] theorem State.awaitKey_v (t : Nibble) : (s.awaitKey t).v = s.v := rfl
@[simp] theorem State.awaitKey_i (t : Nibble) : (s.awaitKey t).i = s.i := rfl
@[simp] theorem State.awaitKey_pc (t : Nibble) : (s.awaitKey t).pc = s.pc := rfl
@[simp] theorem State.awaitKey_stack (t : Nibble) : (s.awaitKey t).stack = s.stack := rfl
@[simp] theorem State.awaitKey_sp (t : Nibble) : (s.awaitKey t).sp = s.sp := rfl
@[simp] theorem State.awaitKey_dt (t : Nibble) : (s.awaitKey t).dt = s.dt := rfl
@[simp] theorem State.awaitKey_st (t : Nibble) : (s.awaitKey t).st = s.st := rfl
@[simp] theorem State.awaitKey_sc (t : Nibble) : (s.awaitKey t).sc = s.sc := rfl
@[simp] theorem State.awaitKey_disp (t : Nibble) : (s.awaitKey t).disp = s.disp := rfl
@[simp] theorem State.awaitKey_mem (t : Nibble) : (s.awaitKey t).mem = s.mem := rfl
@[simp] theorem State.awaitKey_key (t : Nibble) : (s.awaitKey t).key = s.key := rfl
@[simp] theorem State.awaitKey_run (t : Nibble) : (s.awaitKey t).run = .awaitingKey t := rfl
@[simp] theorem State.awaitKey_params (t : Nibble) : (s.awaitKey t).params = s.params := rfl
@[simp] theorem State.awaitKey_rand (t : Nibble) : (s.awaitKey t).rand = s.rand := rfl
@[simp] theorem State.awaitKey_draws (t : Nibble) : (s.awaitKey t).draws = s.draws := rfl
@[simp] theorem State.awaitKey_events (t : Nibble) : (s.awaitKey t).events = s.events := rfl
@[simp] theorem State.awaitKey_reg (t : Nibble) (x' : Nibble) : (s.awaitKey t).reg x' = s.reg x' := rfl
@[simp] theorem State.awaitKey_slot (t : Nibble) (k : Nibble) : (s.awaitKey t).slot k = s.slot k := rfl
@[simp] theorem State.awaitKey_pixel (t : Nibble) (r' c' : Coord) : (s.awaitKey t).pixel r' c' = s.pixel r' c' := rfl
@[simp] theorem State.awaitKey_keyDown (t : Nibble) (k : Nibble) : (s.awaitKey t).keyDown k = s.keyDown k := rfl
@[simp] theorem State.awaitKey_readByte (t : Nibble) (a' : Addr) : (s.awaitKey t).readByte a' = s.readByte a' := rfl

/-! ### prepare -/
@[simp] theorem State.prepare_v : s.prepare.v = s.v := rfl
@[simp] theorem State.prepare_i : s.prepare.i = s.i &&& 0x0FFF := rfl
@[simp] theorem State.prepare_pc : s.prepare.pc = s.pc + 2 := rfl
@[simp] theorem State.prepare_stack : s.prepare.stack = s.stack := rfl
@[simp] theorem State.prepare_sp : s.prepare.sp = s.sp := rfl
@[simp] theorem State.prepare_dt : s.prepare.dt = s.dt := rfl
@[simp] theorem State.prepare_st : s.prepare.st = s.st := rfl
@[simp] theorem State.prepare_sc : s.prepare.sc = s.sc + 1 := rfl
@[simp] theorem State.prepare_disp : s.prepare.disp = s.disp := rfl
@[simp] theorem State.prepare_mem : s.prepare.mem = s.mem := rfl
@[simp] theorem State.prepare_key : s.prepare.key = s.key := rfl
@[simp] theorem State.prepare_run : s.prepare.run = s.run := rfl
@[simp] theorem State.prepare_params : s.prepare.params = s.params := rfl
@[simp] theorem State.prepare_rand : s.prepare.rand = s.rand := rfl
@[simp] theorem State.prepare_draws : s.prepare.draws = s.draws := rfl
@[simp] theorem State.prepare_events : s.prepare.events = s.events := rfl
@[simp] theorem State.prepare_reg (x' : Nibble) : s.prepare.reg x' = s.reg x' := rfl
@[simp] theorem State.prepare_slot (k : Nibble) : s.prepare.slot k = s.slot k := rfl
@[simp] theorem State.prepare_pixel (r' c' : Coord) : s.prepare.pixel r' c' = s.pixel r' c' := rfl
@[simp] theorem State.prepare_keyDown (k : Nibble) : s.prepare.keyDown k = s.keyDown k := rfl
@[simp] theorem State.prepare_readByte (a' : Addr) : s.prepare.readByte a' = s.readByte a' := rfl

/-! ### takeRand -/
@[simp] theorem State.takeRand_v : s.takeRand.v = s.v := rfl
@[simp] theorem State.takeRand_i : s.takeRand.i = s.i := rfl
@[simp] theorem State.takeRand_pc : s.takeRand.pc = s.pc := rfl
@[simp] theorem State.takeRand_stack : s.takeRand.stack = s.stack := rfl
@[simp] theorem State.takeRand_sp : s.takeRand.sp = s.sp := rfl
@[simp] theorem State.takeRand_dt : s.takeRand.dt = s.dt := rfl
@[simp] theorem State.takeRand_st : s.takeRand.st = s.st := rfl
@[simp] theorem State.takeRand_sc : s.takeRand.sc = s.sc := rfl
@[simp] theorem State.takeRand_disp : s.takeRand.disp = s.disp := rfl
@[simp] theorem State.takeRand_mem : s.takeRand.mem = s.mem := rfl
@[simp] theorem State.takeRand_key : s.takeRand.key = s.key := rfl
@[simp] theorem State.takeRand_run : s.takeRand.run = s.run := rfl
@[simp] theorem State.takeRand_params : s.takeRand.params = s.params := rfl
@[simp] theorem State.takeRand_rand : s.takeRand.rand = none := rfl
@[simp] theorem State.takeRand_draws : s.takeRand.draws = s.draws + 1 := rfl
@[simp] theorem State.takeRand_events : s.takeRand.events = s.events := rfl
@[simp] theorem State.takeRand_reg (x' : Nibble) : s.takeRand.reg x' = s.reg x' := rfl
@[simp] theorem State.takeRand_slot (k : Nibble) : s.takeRand.slot k = s.slot k := rfl
@[simp] theorem State.takeRand_pixel (r' c' : Coord) : s.takeRand.pixel r' c' = s.pixel r' c' := rfl
@[simp] theorem State.takeRand_keyDown (k : Nibble) : s.takeRand.keyDown k = s.keyDown k := rfl
@[simp] theorem State.takeRand_readByte (a' : Addr) : s.takeRand.readByte a' = s.readByte a' := rfl

/-! ### dropRand -/
@[simp] theorem State.dropRand_v : s.dropRand.v = s.v := rfl
@[simp] theorem State.dropRand_i : s.dropRand.i = s.i := rfl
@[simp] theorem State.dropRand_pc : s.dropRand.pc = s.pc := rfl
@[simp] theorem State.dropRand_stack : s.dropRand.stack = s.stack := rfl
@[simp] theorem State.dropRand_sp : s.dropRand.sp = s.sp := rfl
@[simp] theorem State.dropRand_dt : s.dropRand.dt = s.dt := rfl
@[simp] theorem State.dropRand_st : s.dropRand.st = s.st := rfl
@[simp] theorem State.dropRand_sc : s.dropRand.sc = s.sc := rfl
@[simp] theorem State.dropRand_disp : s.dropRand.disp = s.disp := rfl
@[simp] theorem State.dropRand_mem : s.dropRand.mem = s.mem := rfl
@[simp] theorem State.dropRand_key : s.dropRand.key = s.key := rfl
@[simp] theorem State.dropRand_run : s.dropRand.run = s.run := rfl
@[simp] theorem State.dropRand_params : s.dropRand.params = s.params := rfl
@[simp] theorem State.dropRand_rand : s.dropRand.rand = none := rfl
@[simp] theorem State.dropRand_draws : s.dropRand.draws = s.draws := rfl
@[simp] theorem State.dropRand_events : s.dropRand.events = s.events := rfl
@[simp] theorem State.dropRand_reg (x' : Nibble) : s.dropRand.reg x' = s.reg x' := rfl
@[simp] theorem State.dropRand_slot (k : Nibble) : s.dropRand.slot k = s.slot k := rfl
@[simp] theorem State.dropRand_pixel (r' c' : Coord) : s.dropRand.pixel r' c' = s.pixel r' c' := rfl
@[simp] theorem State.dropRand_keyDown (k : Nibble) : s.dropRand.keyDown k = s.keyDown k := rfl
@[simp] theorem State.dropRand_readByte (a' : Addr) : s.dropRand.readByte a' = s.readByte a' := rfl

end Sys2Proof.Machine
end

