-- ==== Sys2Proof/Laws/Ops.lean ====
section
/-! SUPPORT. One lemma per shared operation that says all it can do, for proofs to cite instead of unfolding it;
and what the folds over an operation (block moves, sprite rows) leave alone. -/

namespace Sys2Proof.Machine

variable (s : State)

/-! ### Registers, stack, pixels -/

/-- `V[r]` after `V[x] <- b`. -/
@[simp] theorem State.reg_setReg (x r : Nibble) (b : Byte) :
    (s.setReg x b).reg r = if x = r then b else s.reg r := by
  simp only [State.reg, State.setReg_v, Vector.getElem_set, BitVec.toNat_inj]

/-- `V[r]` after a flag and a result are written in the order of R132: the result wins. -/
theorem State.reg_setFlagThenReg (flag result : Byte) (x r : Nibble) :
    (s.setFlagThenReg flag x result).reg r = if x = r then result else if vf = r then flag else s.reg r := by
  simp [State.setFlagThenReg]

/-- `STACK[k]` after a push: the slot above the old top is new. -/
@[simp] theorem State.slot_push (w : Word) (k : Nibble) :
    (s.push w).slot k = if s.sp + 1 = k then w else s.slot k := by
  simp only [State.slot, State.push_stack, Vector.getElem_set, BitVec.toNat_inj]

/-- A pixel after a pixel is written. -/
@[simp] theorem State.pixel_setPixel (r c r' c' : Coord) (b : Bool) :
    (s.setPixel r c b).pixel r' c' = if r = r' ∧ c = c' then b else s.pixel r' c' := by
  simp only [State.pixel, State.setPixel, Vector.getElem_set, BitVec.toNat_inj]
  by_cases hr : r = r'
  · subst hr; simp [Vector.getElem_set, BitVec.toNat_inj]
  · simp [hr]

/-- Every pixel is off after a clear. -/
@[simp] theorem State.pixel_clearDisplay (r c : Coord) : s.clearDisplay.pixel r c = false := by
  simp [State.pixel, State.clearDisplay]

/-! ### Conditional operations -/

/-- A conditional skip moves `PC` by 2 or not at all, and does nothing else. -/
theorem State.skipIf_eq (c : Bool) : s.skipIf c = s.setPc (if c then s.pc + 2 else s.pc) := by
  cases c <;> rfl

/-- A key skip with an index out of range raises the fault, with one in range moves `PC` or not (R160, R167). -/
theorem skipOnKey_eq (vx : Byte) (wanted : Bool) :
    skipOnKey vx wanted s = if vx.toNat > 15 then s.raise (.keyIndexOutOfRange vx)
      else s.setPc (if s.keyDown (vx.setWidth 4) == wanted then s.pc + 2 else s.pc) := by
  simp only [skipOnKey, State.skipIf_eq]

/-- An optional event is emitted or not, and nothing else happens. -/
theorem State.emitOptional_eq (e : Event) :
    s.emitOptional e = { s with events := if s.params.optionalEvents then s.events ++ [e] else s.events } := by
  unfold State.emitOptional; split <;> rfl

/-- The tick changes `DT`, and emits its event, only where `SC` is 0 and `DT` is not (R98); it touches nothing
else. -/
theorem State.tick_eq : s.tick = { s with
    dt := if s.sc = 0 ∧ s.dt ≠ 0 then s.dt - 1 else s.dt,
    events := if (s.sc = 0 ∧ s.dt ≠ 0) ∧ s.params.optionalEvents then s.events ++ [.timerTick] else s.events } := by
  unfold State.tick
  rw [State.emitOptional_eq]
  by_cases h : s.sc = 0 ∧ s.dt ≠ 0 <;> by_cases o : s.params.optionalEvents = true
  · rw [if_pos h, if_pos h, if_pos (by exact o), if_pos ⟨h, o⟩]; rfl
  · rw [if_pos h, if_pos h, if_neg (by exact o), if_neg (fun c => o c.2)]; rfl
  · rw [if_neg h, if_neg h, if_neg (fun c => h c.1)]
  · rw [if_neg h, if_neg h, if_neg (fun c => h c.1)]

/-- `DT` after the tick, as a number: down by one on a step in which `SC` returned to 0, never below 0 (R98). -/
theorem State.tick_dt : s.tick.dt.toNat = if s.sc = 0 then s.dt.toNat - 1 else s.dt.toNat := by
  rw [State.tick_eq]
  dsimp only
  by_cases h : s.sc = 0 <;> by_cases h' : s.dt = 0 <;> simp only [h, h', ne_eq, not_true_eq_false, and_false,
    false_and, true_and, not_false_eq_true, if_true, if_false]
  · rfl
  · bv_omega

/-- `I & 0x0FFF` is `I mod 4096` (R95). -/
theorem State.prepare_i_toNat : s.prepare.i.toNat = s.i.toNat % 4096 := by
  rw [State.prepare_i, BitVec.toNat_and]; exact Nat.and_two_pow_sub_one_eq_mod _ 12

/-- Ending a step: discard if the handler raised, tick otherwise (R98, R99). -/
theorem State.commit_eq (before after : State) :
    State.commit before after = match after.run with
      | .faulted f => before.raise f
      | .running => after.tick.takeRand
      | .awaitingKey _ => after.tick.takeRand := by
  unfold State.commit; cases after.run <;> rfl

/-- A step whose handler raised no fault ends with the tick. -/
theorem State.commit_of_safe (before after : State) (h : after.safe = true) :
    State.commit before after = after.tick.takeRand := by
  rw [State.commit_eq]; revert h; unfold State.safe; cases after.run <;> simp

/-- Every handler answers a next state. -/
theorem exec_next (i : Instr) : ∃ t, exec i s = .next t := by cases i <;> exact ⟨_, rfl⟩

/-- A step that executes an instruction is its handler on the prepared state, then the commit. -/
theorem State.Executes.step_eq {s : State} {i : Instr} {t : State} (h : s.Executes i)
    (he : exec i s.prepare = .next t) : step s = .next (State.commit s t) := by
  obtain ⟨hr, w, hw, rfl⟩ := h
  unfold step; rw [hr]; simp only [hw, he]

/-- What a step can do: nothing, the key wait, the fetch fault, or one instruction. -/
theorem step_cases {s t : State} (h : step s = .next t) :
    (∃ f, s.run = .faulted f ∧ t = s) ∨ (∃ k, s.run = .awaitingKey k ∧ t = (s.keyWait k).dropRand) ∨
    (s.run = .running ∧ s.fetchWord = none ∧ t = s.raise (.fetchOutOfRange s.pc)) ∨
    (∃ i u, s.Executes i ∧ exec i s.prepare = .next u ∧ t = State.commit s u) := by
  unfold step at h
  cases hr : s.run with
  | faulted f => rw [hr] at h; injection h with h; exact .inl ⟨f, rfl, h.symm⟩
  | awaitingKey k => rw [hr] at h; injection h with h; exact .inr (.inl ⟨k, rfl, h.symm⟩)
  | running =>
    rw [hr] at h; dsimp only at h
    cases hw : s.fetchWord with
    | none => rw [hw] at h; injection h with h; exact .inr (.inr (.inl ⟨rfl, rfl, h.symm⟩))
    | some w =>
      obtain ⟨u, hu⟩ := exec_next s.prepare (decode w)
      rw [hw] at h; simp only [hu] at h; injection h with h
      exact .inr (.inr (.inr ⟨decode w, u, ⟨hr, w, hw, rfl⟩, hu, h.symm⟩))

/-- The least key down is down, and no lower one is (R166). -/
theorem State.lowestKey_some (k : Nibble) (h : s.lowestKey = some k) :
    s.keyDown k = true ∧ ∀ j : Nibble, j < k → s.keyDown j = false := by
  unfold State.lowestKey at h
  rw [List.find?_map, Option.map_eq_some_iff] at h
  obtain ⟨a, ha, rfl⟩ := h
  rw [List.find?_range_eq_some] at ha
  obtain ⟨h1, h2, h3⟩ := ha
  simp only [Function.comp_apply, List.mem_range, Bool.not_eq_true'] at h1 h2 h3
  refine ⟨h1, fun j hj => ?_⟩
  have := h3 j.toNat (by rw [BitVec.lt_def, BitVec.toNat_ofNat] at hj; omega)
  simpa using this

/-- There is no least key down only where no key is down (R166). -/
theorem State.lowestKey_none (h : s.lowestKey = none) (k : Nibble) : s.keyDown k = false := by
  unfold State.lowestKey at h
  rw [List.find?_eq_none] at h
  have := h k (by
    simp only [List.mem_map, List.mem_range]
    exact ⟨k.toNat, k.isLt, by simp⟩)
  simpa using this

/-- The two ways a step's commit ends: the state before it with the fault recorded, or the tick (R98, R99). -/
theorem State.commit_cases (before after : State) :
    (∃ f, after.run = .faulted f ∧ State.commit before after = before.raise f) ∨
    (after.safe = true ∧ State.commit before after = after.tick.takeRand) := by
  rw [State.commit_eq]
  unfold State.safe
  cases after.run <;> simp

/-- The key wait writes one register at most, and lets the machine run again if it does (R166). -/
theorem State.keyWait_frame (t : Nibble) :
    ∃ v r, s.keyWait t = { s with v := v, run := r } ∧ (r = s.run ∨ r = .running) := by
  unfold State.keyWait
  split
  · exact ⟨_, _, rfl, .inr rfl⟩
  · exact ⟨_, _, rfl, .inl rfl⟩

/-- Handlers run in two parts. -/
theorem execAll_append {is js : List Instr} {t : State} (h : execAll is s = .next t) :
    execAll (is ++ js) s = execAll js t := by
  induction is generalizing s with
  | nil => injection h with h; subst h; rfl
  | cons i is ih =>
    obtain ⟨u, hu⟩ := exec_next s i
    simp only [List.cons_append, execAll, hu] at h ⊢
    exact ih u h

end Sys2Proof.Machine
end

