-- ==== Sys2Proof/Laws/Blocks.lean ====
section
/-! SUPPORT. What the two block moves do as a whole (43_index_memory.md R144, R145): the bytes or registers they
write, and that they touch nothing else. -/

namespace Sys2Proof.Machine

variable (s : State)

/-- Two offsets below 16 from one base are two addresses: sixteen bytes do not overlap themselves (R54). -/
theorem ea_inj {w : Word} {a b : Nat} (ha : a < 16) (hb : b < 16) : ea w a = ea w b ↔ a = b := by
  refine ⟨fun h => ?_, fun h => h ▸ rfl⟩
  have := congrArg BitVec.toNat h
  simp only [ea, BitVec.toNat_ofNat] at this
  omega

theorem blockReg_toNat (k : Nibble) : blockReg k.toNat = k := by simp [blockReg]

theorem blockReg_eq {k : Nat} (h : k < 16) (r : Nibble) : blockReg k = r ↔ k = r.toNat := by
  rw [← BitVec.toNat_inj, blockReg, BitVec.toNat_ofNat, Nat.mod_eq_of_lt h]

/-- The first `n` bytes of a block store write memory and nothing else. -/
theorem storeBlock_frame (n : Nat) :
    ∃ m, (List.range n).foldl storeBlockByte s = { s with mem := m } := by
  induction n with
  | zero => exact ⟨_, rfl⟩
  | succ n ih =>
    obtain ⟨m, e⟩ := ih
    rw [List.range_succ, List.foldl_append, e]; exact ⟨_, rfl⟩

/-- A byte of memory after a block store of `n` registers: register `k` at the address of offset `k`. -/
theorem storeBlock_readByte_at {n : Nat} (h : n ≤ 16) {k : Nat} (hk : k < n) :
    ((List.range n).foldl storeBlockByte s).readByte (ea s.i k) = s.reg (blockReg k) := by
  induction n with
  | zero => omega
  | succ n ih =>
    obtain ⟨m, hf⟩ := storeBlock_frame s n
    rw [List.range_succ, List.foldl_append]
    simp only [List.foldl_cons, List.foldl_nil, storeBlockByte, State.readByte_writeByte]
    rw [show ((List.range n).foldl storeBlockByte s).i = s.i by rw [hf],
      show ∀ r, ((List.range n).foldl storeBlockByte s).reg r = s.reg r by rw [hf]; exact fun _ => rfl]
    simp only [ea_inj (show n < 16 by omega) (show k < 16 by omega)]
    split_ifs with e
    · rw [e]
    · exact ih (by omega) (by omega)

/-- A byte elsewhere reads as before. -/
theorem storeBlock_readByte_off (n : Nat) (a : Addr) (ha : a ∉ (List.range n).map (ea s.i)) :
    ((List.range n).foldl storeBlockByte s).readByte a = s.readByte a := by
  induction n with
  | zero => rfl
  | succ n ih =>
    obtain ⟨m, hf⟩ := storeBlock_frame s n
    rw [List.range_succ, List.map_append, List.mem_append, not_or] at ha
    rw [List.range_succ, List.foldl_append]
    simp only [List.foldl_cons, List.foldl_nil, storeBlockByte, State.readByte_writeByte]
    rw [show ((List.range n).foldl storeBlockByte s).i = s.i by rw [hf], if_neg (fun e => ha.2 (by simp [e]))]
    exact ih ha.1

/-- A block store keeps the canonical form. -/
theorem storeBlock_memWf (n : Nat) (h : s.memWf = true) : ((List.range n).foldl storeBlockByte s).memWf = true := by
  induction n with
  | zero => exact h
  | succ n ih =>
    rw [List.range_succ, List.foldl_append]
    exact State.memWf_writeByte _ _ _ ih

/-- The first `n` bytes of a block load write general registers and nothing else. -/
theorem loadBlock_frame (n : Nat) :
    ∃ v, (List.range n).foldl loadBlockByte s = { s with v := v } := by
  induction n with
  | zero => exact ⟨_, rfl⟩
  | succ n ih =>
    obtain ⟨v, e⟩ := ih
    rw [List.range_succ, List.foldl_append, e]; exact ⟨_, rfl⟩

/-- A register after a block load of `n` registers: the byte at the address of its number's offset, or as before. -/
theorem loadBlock_reg {n : Nat} (h : n ≤ 16) (r : Nibble) :
    ((List.range n).foldl loadBlockByte s).reg r = if r.toNat < n then s.readByte (ea s.i r.toNat) else s.reg r := by
  induction n with
  | zero => simp
  | succ n ih =>
    obtain ⟨v, hf⟩ := loadBlock_frame s n
    rw [List.range_succ, List.foldl_append]
    simp only [List.foldl_cons, List.foldl_nil, loadBlockByte, State.reg_setReg]
    rw [show ((List.range n).foldl loadBlockByte s).i = s.i by rw [hf],
      show ∀ a, ((List.range n).foldl loadBlockByte s).readByte a = s.readByte a by rw [hf]; exact fun _ => rfl]
    rw [ih (by omega)]
    simp only [blockReg_eq (show n < 16 by omega)]
    split_ifs with e1 e2 e3 <;> first | omega | rw [e1] | rfl

end Sys2Proof.Machine
end

