-- ==== Sys2Proof/Laws/Decode.lean ====
section
/-! SUPPORT. The fields of an assembled word are the fields it was assembled from, and a word is assembled from its
fields: what decoding and encoding proofs cite. -/

namespace Sys2Proof

/-! ### Fields of an assembled word -/

@[simp] theorem op1_encodeNnn (op : Nibble) (nnn : Addr) : op1 (encodeNnn op nnn) = op := by
  ext i hi; simp only [op1, encodeNnn, BitVec.getElem_extractLsb', BitVec.getLsbD_append]; grind
@[simp] theorem fieldNnn_encodeNnn (op : Nibble) (nnn : Addr) : fieldNnn (encodeNnn op nnn) = nnn := by
  ext i hi; simp only [fieldNnn, encodeNnn, BitVec.getElem_extractLsb', BitVec.getLsbD_append]; grind
@[simp] theorem op1_encodeXkk (op x : Nibble) (kk : Byte) : op1 (encodeXkk op x kk) = op := by
  ext i hi; simp only [op1, encodeXkk, BitVec.getElem_extractLsb', BitVec.getLsbD_append]; grind
@[simp] theorem fieldX_encodeXkk (op x : Nibble) (kk : Byte) : fieldX (encodeXkk op x kk) = x := by
  ext i hi; simp only [fieldX, encodeXkk, BitVec.getElem_extractLsb', BitVec.getLsbD_append]; grind
@[simp] theorem fieldKk_encodeXkk (op x : Nibble) (kk : Byte) : fieldKk (encodeXkk op x kk) = kk := by
  ext i hi; simp only [fieldKk, encodeXkk, BitVec.getElem_extractLsb', BitVec.getLsbD_append]; grind
@[simp] theorem op1_encodeXyn (op x y n : Nibble) : op1 (encodeXyn op x y n) = op := by
  ext i hi; simp only [op1, encodeXyn, BitVec.getElem_extractLsb', BitVec.getLsbD_append]; grind
@[simp] theorem fieldX_encodeXyn (op x y n : Nibble) : fieldX (encodeXyn op x y n) = x := by
  ext i hi; simp only [fieldX, encodeXyn, BitVec.getElem_extractLsb', BitVec.getLsbD_append]; grind
@[simp] theorem fieldY_encodeXyn (op x y n : Nibble) : fieldY (encodeXyn op x y n) = y := by
  ext i hi; simp only [fieldY, encodeXyn, BitVec.getElem_extractLsb', BitVec.getLsbD_append]; grind
@[simp] theorem fieldN_encodeXyn (op x y n : Nibble) : fieldN (encodeXyn op x y n) = n := by
  ext i hi; simp only [fieldN, encodeXyn, BitVec.getElem_extractLsb', BitVec.getLsbD_append]; grind

/-! ### A word from its fields -/

theorem encodeNnn_fields (w : Word) : encodeNnn (op1 w) (fieldNnn w) = w := by
  ext i hi
  simp only [encodeNnn, op1, fieldNnn]; grind
theorem encodeXkk_fields (w : Word) : encodeXkk (op1 w) (fieldX w) (fieldKk w) = w := by
  ext i hi
  simp only [encodeXkk, op1, fieldX, fieldKk]; grind
theorem encodeXyn_fields (w : Word) : encodeXyn (op1 w) (fieldX w) (fieldY w) (fieldN w) = w := by
  ext i hi
  simp only [encodeXyn, op1, fieldX, fieldY, fieldN]; grind

/-! ### Masking goes field by field -/

theorem encodeNnn_and (a c : Nibble) (b d : Addr) :
    encodeNnn a b &&& encodeNnn c d = encodeNnn (a &&& c) (b &&& d) := by
  ext i hi; simp only [encodeNnn, BitVec.getElem_and, BitVec.getElem_append]; grind
theorem encodeXkk_and (a b d e : Nibble) (c f : Byte) :
    encodeXkk a b c &&& encodeXkk d e f = encodeXkk (a &&& d) (b &&& e) (c &&& f) := by
  ext i hi; simp only [encodeXkk, BitVec.getElem_and, BitVec.getElem_append]; grind
theorem encodeXyn_and (a b c d e f g h : Nibble) :
    encodeXyn a b c d &&& encodeXyn e f g h = encodeXyn (a &&& e) (b &&& f) (c &&& g) (d &&& h) := by
  ext i hi; simp only [encodeXyn, BitVec.getElem_and, BitVec.getElem_append]; grind

/-! ### The formulas of R81 assemble the same words -/

theorem wordNnn_eq (op : Nibble) (nnn : Addr) : Machine.wordNnn (op ++ 0#12) nnn = encodeNnn op nnn := by
  ext i hi
  simp only [Machine.wordNnn, encodeNnn, BitVec.getElem_or, BitVec.getElem_append, BitVec.getElem_setWidth]; grind
theorem wordXkk_eq (op x : Nibble) (kk : Byte) : Machine.wordXkk (op ++ 0#12) x kk = encodeXkk op x kk := by
  ext i hi
  simp only [Machine.wordXkk, encodeXkk, BitVec.getElem_or, BitVec.getElem_append, BitVec.getElem_setWidth,
    BitVec.getElem_shiftLeft]; grind
theorem wordX_eq (op x : Nibble) (kk : Byte) : Machine.wordX (op ++ 0#4 ++ kk) x = encodeXkk op x kk := by
  ext i hi
  simp only [Machine.wordX, encodeXkk, BitVec.getElem_or, BitVec.getElem_append, BitVec.getElem_setWidth,
    BitVec.getElem_shiftLeft]; grind
theorem wordXy_eq (op x y n : Nibble) : Machine.wordXy (op ++ 0#8 ++ n) x y = encodeXyn op x y n := by
  ext i hi
  simp only [Machine.wordXy, encodeXyn, BitVec.getElem_or, BitVec.getElem_append, BitVec.getElem_setWidth,
    BitVec.getElem_shiftLeft]; grind
theorem wordXyn_eq (op x y n : Nibble) : Machine.wordXyn (op ++ 0#12) x y n = encodeXyn op x y n := by
  ext i hi
  simp only [Machine.wordXyn, Machine.wordXy, encodeXyn, BitVec.getElem_or, BitVec.getElem_append,
    BitVec.getElem_setWidth, BitVec.getElem_shiftLeft]; grind

end Sys2Proof
end

