-- ==== Sys2Proof/Laws/Display.lean ====
section
/-! SUPPORT. What a draw does as a whole (44_display.md R151, R152): each pixel, the flag register, and that it
touches nothing else. -/

namespace Sys2Proof.Machine

variable (s : State)

/-- A pixel lies at offset `d` from an origin exactly where its distance from it is `d` (R151). -/
theorem coord_eq (o : Byte) {d : Nat} (hd : d < 64) (p : Coord) : coord o d = p ↔ (p - o.setWidth 6).toNat = d := by
  rw [← BitVec.toNat_inj]
  simp only [coord, BitVec.toNat_ofNat, BitVec.toNat_sub, BitVec.toNat_setWidth]
  omega

/-! ### One pixel -/

theorem drawPixel_frame (vx vy b : Byte) (row col : Nat) :
    ∃ v d, drawPixel vx vy b row s col = { s with v := v, disp := d } := by
  unfold drawPixel; dsimp only; split_ifs <;> exact ⟨_, _, rfl⟩

theorem drawPixel_pixel (vx vy b : Byte) (row col : Nat) (r c : Coord) :
    (drawPixel vx vy b row s col).pixel r c =
      (s.pixel r c ^^ (decide (coord vy row = r ∧ coord vx col = c) && spriteBit b col)) := by
  unfold drawPixel
  cases hb : spriteBit b col
  · simp
  · simp only [if_true, State.pixel_setPixel, Bool.and_true]
    by_cases h : coord vy row = r ∧ coord vx col = c
    · rw [if_pos h, h.1, h.2]; simp
    · rw [if_neg h]; split_ifs <;> simp [h]

theorem drawPixel_reg (vx vy b : Byte) (row col : Nat) (r : Nibble) :
    (drawPixel vx vy b row s col).reg r =
      if r = vf ∧ spriteBit b col = true ∧ s.pixel (coord vy row) (coord vx col) = true then 1 else s.reg r := by
  unfold drawPixel
  cases hb : spriteBit b col
  · simp
  · cases hp : s.pixel (coord vy row) (coord vx col)
    · simp [hp]
    · simp only [if_true, hp, State.setPixel_reg, State.reg_setReg, and_true, eq_comm]

/-! ### One row: the first `k` columns -/

theorem drawCols_frame (vx vy b : Byte) (row k : Nat) :
    ∃ v d, (List.range k).foldl (drawPixel vx vy b row) s = { s with v := v, disp := d } := by
  induction k with
  | zero => exact ⟨_, _, rfl⟩
  | succ k ih =>
    obtain ⟨v, d, e⟩ := ih
    rw [List.range_succ, List.foldl_append, e]
    exact drawPixel_frame { s with v := v, disp := d } _ _ _ _ _

theorem drawCols_pixel (vx vy b : Byte) (row : Nat) {k : Nat} (hk : k ≤ 8) (r c : Coord) :
    ((List.range k).foldl (drawPixel vx vy b row) s).pixel r c =
      (s.pixel r c ^^ (decide (coord vy row = r ∧ (c - vx.setWidth 6).toNat < k) &&
        spriteBit b (c - vx.setWidth 6).toNat)) := by
  induction k with
  | zero => simp
  | succ k ih =>
    rw [List.range_succ, List.foldl_append]
    simp only [List.foldl_cons, List.foldl_nil, drawPixel_pixel]
    rw [ih (by omega)]
    simp only [coord_eq vx (show k < 64 by omega)]
    by_cases h1 : coord vy row = r <;> by_cases h2 : (c - vx.setWidth 6).toNat = k
    · simp [h1, h2]
    · simp only [h1, h2]; grind
    · simp [h1]
    · simp [h1]

theorem drawCols_reg (vx vy b : Byte) (row : Nat) {k : Nat} (hk : k ≤ 8) (r : Nibble) :
    ((List.range k).foldl (drawPixel vx vy b row) s).reg r =
      if r = vf ∧ ∃ col, col < k ∧ spriteBit b col = true ∧ s.pixel (coord vy row) (coord vx col) = true then 1
      else s.reg r := by
  induction k with
  | zero => simp
  | succ k ih =>
    rw [List.range_succ, List.foldl_append]
    simp only [List.foldl_cons, List.foldl_nil, drawPixel_reg]
    rw [ih (by omega), drawCols_pixel _ _ _ _ _ (by omega),
      (coord_eq vx (show k < 64 by omega) _).mp rfl]
    simp only [Nat.lt_irrefl, and_false, decide_false, Bool.false_and, Bool.xor_false]
    split_ifs with h1 h2 h3 h3 h4 <;> grind

/-! ### The first `n` rows -/

theorem drawRow_frame (vx vy : Byte) (row : Nat) :
    ∃ v d, drawRow vx vy s row = { s with v := v, disp := d } := drawCols_frame s _ _ _ _ _

/-- A draw writes `V` and the display and nothing else. -/
theorem drawSprite_frame (vx vy : Byte) (n : Nat) :
    ∃ v d, drawSprite vx vy n s = { s with v := v, disp := d } := by
  unfold drawSprite
  induction n with
  | zero => exact ⟨_, _, rfl⟩
  | succ n ih =>
    obtain ⟨v, d, e⟩ := ih
    rw [List.range_succ, List.foldl_append, e]
    obtain ⟨v', d', e'⟩ := drawRow_frame { s with v := v, disp := d } vx vy n
    exact ⟨v', d', e'⟩

/-- A pixel after a draw of `n` rows: its old value exclusive-or the sprite over it (R152(a)). -/
theorem drawSprite_pixel (vx vy : Byte) {n : Nat} (hn : n ≤ 16) (r c : Coord) :
    (drawSprite vx vy n s).pixel r c = (s.pixel r c ^^ spriteOver s vx vy n r c) := by
  induction n with
  | zero => simp [drawSprite, spriteOver]
  | succ n ih =>
    obtain ⟨v, d, hf⟩ := drawSprite_frame s vx vy n
    rw [drawSprite, List.range_succ, List.foldl_append, ← drawSprite]
    simp only [List.foldl_cons, List.foldl_nil, drawRow]
    rw [drawCols_pixel _ _ _ _ _ (by omega), ih (by omega)]
    rw [show (drawSprite vx vy n s).i = s.i by rw [hf],
      show ∀ a, (drawSprite vx vy n s).readByte a = s.readByte a by rw [hf]; exact fun _ => rfl]
    simp only [coord_eq vy (show n < 64 by omega), spriteOver, spriteBit]
    by_cases h1 : (r - vy.setWidth 6).toNat = n
    · simp [h1]
    · simp only [h1]; grind

/-- The flag register after a draw of `n` rows: 1 where a lit pixel was under a set bit, else as it was. -/
theorem drawSprite_reg (vx vy : Byte) {n : Nat} (hn : n ≤ 16) (r : Nibble) :
    (drawSprite vx vy n s).reg r =
      if r = vf ∧ ∃ r' c', s.pixel r' c' = true ∧ spriteOver s vx vy n r' c' = true then 1 else s.reg r := by
  induction n with
  | zero => simp [drawSprite, spriteOver]
  | succ n ih =>
    obtain ⟨v, d, hf⟩ := drawSprite_frame s vx vy n
    have hp := drawSprite_pixel s vx vy (show n ≤ 16 by omega)
    rw [drawSprite, List.range_succ, List.foldl_append, ← drawSprite]
    simp only [List.foldl_cons, List.foldl_nil, drawRow]
    rw [drawCols_reg _ _ _ _ _ (by omega), ih (by omega)]
    rw [show (drawSprite vx vy n s).i = s.i by rw [hf],
      show ∀ a, (drawSprite vx vy n s).readByte a = s.readByte a by rw [hf]; exact fun _ => rfl]
    by_cases h15 : r = vf
    swap
    · simp [h15]
    simp only [h15, true_and]
    have key : (∃ r' c', s.pixel r' c' = true ∧ spriteOver s vx vy (n + 1) r' c' = true) ↔
        (∃ col, col < 8 ∧ spriteBit (s.readByte (ea s.i n)) col = true ∧
          (drawSprite vx vy n s).pixel (coord vy n) (coord vx col) = true) ∨
        ∃ r' c', s.pixel r' c' = true ∧ spriteOver s vx vy n r' c' = true := by
      constructor
      · rintro ⟨r', c', h1, h2⟩
        by_cases hr : coord vy n = r'
        · have hr' := (coord_eq vy (show n < 64 by omega) r').mp hr
          simp only [spriteOver, hr', Bool.and_eq_true, decide_eq_true_eq] at h2
          have hc := (coord_eq vx (show (c' - vx.setWidth 6).toNat < 64 by omega) c').mpr rfl
          refine .inl ⟨(c' - vx.setWidth 6).toNat, h2.1.2, h2.2, ?_⟩
          rw [hr, hc, hp, h1]; simp [spriteOver, hr']
        · refine .inr ⟨r', c', h1, ?_⟩
          rw [coord_eq vy (show n < 64 by omega)] at hr
          simp only [spriteOver, Bool.and_eq_true, decide_eq_true_eq] at h2 ⊢
          exact ⟨⟨by omega, h2.1.2⟩, h2.2⟩
      · rintro (⟨col, h1, h2, h3⟩ | ⟨r', c', h1, h2⟩)
        · have e1 := (coord_eq vy (show n < 64 by omega) _).mp rfl
          have e2 := (coord_eq vx (show col < 64 by omega) _).mp rfl
          refine ⟨coord vy n, coord vx col, ?_, ?_⟩
          · rw [hp] at h3; simpa [spriteOver, e1] using h3
          · simp only [spriteOver, e1, e2, Bool.and_eq_true, decide_eq_true_eq]
            exact ⟨⟨by omega, h1⟩, h2⟩
        · refine ⟨r', c', h1, ?_⟩
          simp only [spriteOver, Bool.and_eq_true, decide_eq_true_eq] at h2 ⊢
          exact ⟨⟨by omega, h2.1.2⟩, h2.2⟩
    simp only [key]
    split_ifs <;> grind

/-- The DRW handler writes `V`, the display and the events, and nothing else. -/
theorem execDrw_frame (x y n : Nibble) :
    ∃ v d e, execDrw x y n s = .next { s with v := v, disp := d, events := e } := by
  obtain ⟨v, d, e⟩ := drawSprite_frame (s.setReg vf 0) (s.reg x) (s.reg y) n.toNat
  unfold execDrw
  rw [State.emitOptional_eq, e]
  exact ⟨v, d, _, rfl⟩

end Sys2Proof.Machine
end

