-- ==== Sys2Proof/Laws/Frames.lean ====
section
/-! SUPPORT. The frames of the one-field updates, in the relations of Safety.lean: what a jump, a skip, a register
write, a flag-setting write and an index write leave as it was. -/

namespace Sys2Proof.Machine

variable (s : State)

theorem onlyPc_setPc (w : Word) : OnlyPc s (s.setPc w) :=
  ⟨fun _ _ => rfl, rfl, ⟨rfl, fun _ => rfl⟩, ⟨rfl, rfl, rfl⟩, fun _ _ => rfl, fun _ => rfl,
    ⟨rfl, fun _ => rfl, rfl, rfl, rfl⟩, rfl⟩

theorem onlyPc_skipIf (c : Bool) : OnlyPc s (s.skipIf c) := by
  rw [State.skipIf_eq]; exact onlyPc_setPc s _

theorem onlyIndex_setIndex (w : Word) : OnlyIndex s (s.setIndex w) :=
  ⟨fun _ _ => rfl, rfl, ⟨rfl, fun _ => rfl⟩, ⟨rfl, rfl, rfl⟩, fun _ _ => rfl, fun _ => rfl,
    ⟨rfl, fun _ => rfl, rfl, rfl, rfl⟩, rfl⟩

theorem onlyRegs_setReg (x : Nibble) (b : Byte) : OnlyRegs [x] s (s.setReg x b) := by
  refine ⟨fun r hr => ?_, rfl, rfl, ⟨rfl, fun _ => rfl⟩, ⟨rfl, rfl, rfl⟩, fun _ _ => rfl, fun _ => rfl,
    ⟨rfl, fun _ => rfl, rfl, rfl, rfl⟩, rfl⟩
  rw [State.reg_setReg, if_neg]
  rintro rfl
  exact hr (List.mem_singleton.mpr rfl)

theorem onlyRegs_setFlagThenReg (flag : Byte) (x : Nibble) (b : Byte) :
    OnlyRegs [x, 15] s (s.setFlagThenReg flag x b) := by
  refine ⟨fun r hr => ?_, rfl, rfl, ⟨rfl, fun _ => rfl⟩, ⟨rfl, rfl, rfl⟩, fun _ _ => rfl, fun _ => rfl,
    ⟨rfl, fun _ => rfl, rfl, rfl, rfl⟩, rfl⟩
  simp only [List.mem_cons, List.not_mem_nil, or_false, not_or] at hr
  rw [State.reg_setFlagThenReg, if_neg (Ne.symm hr.1), if_neg (show ¬ vf = r from Ne.symm hr.2)]

/-! ### The load -/

/-- Writing bytes writes memory and nothing else. -/
theorem State.writeBytes_frame (bs : List Byte) (a : Nat) : ∃ m, s.writeBytes a bs = { s with mem := m } := by
  induction bs generalizing s a with
  | nil => exact ⟨s.mem, rfl⟩
  | cons b bs ih =>
    obtain ⟨m, e⟩ := ih (s.writeByte (BitVec.ofNat 12 a) b) (a + 1)
    exact ⟨m, e⟩

/-- A byte outside the bytes written reads as before. -/
theorem State.writeBytes_readByte_off (bs : List Byte) (a : Nat) (k : Addr) (h : a + bs.length ≤ 4096)
    (hk : k.toNat < a ∨ a + bs.length ≤ k.toNat) : (s.writeBytes a bs).readByte k = s.readByte k := by
  induction bs generalizing s a with
  | nil => rfl
  | cons b bs ih =>
    simp only [List.length_cons] at h hk
    refine (ih _ (a + 1) (by omega) (by omega)).trans ?_
    rw [State.readByte_writeByte, if_neg]
    rintro rfl
    rw [BitVec.toNat_ofNat] at hk
    omega

/-- A byte inside reads as the byte written. -/
theorem State.writeBytes_readByte_at (bs : List Byte) (a k : Nat) (h : a + bs.length ≤ 4096) (hk : k < bs.length) :
    (s.writeBytes a bs).readByte (BitVec.ofNat 12 (a + k)) = bs[k] := by
  induction bs generalizing s a k with
  | nil => exact absurd hk (Nat.not_lt_zero k)
  | cons b bs ih =>
    simp only [List.length_cons] at h hk
    cases k with
    | zero =>
      refine (State.writeBytes_readByte_off _ bs (a + 1) _ (by omega) (.inl ?_)).trans ?_
      · rw [BitVec.toNat_ofNat]; omega
      · rw [State.readByte_writeByte, Nat.add_zero, if_pos rfl]; rfl
    | succ k =>
      rw [show a + (k + 1) = a + 1 + k by omega]
      exact ih (s.writeByte (BitVec.ofNat 12 a) b) (a + 1) k (by omega) (by omega)

/-- Writing bytes keeps the canonical form. -/
theorem State.memWf_writeBytes (bs : List Byte) (a : Nat) (h : s.memWf = true) : (s.writeBytes a bs).memWf = true := by
  induction bs generalizing s a with
  | nil => exact h
  | cons b bs ih => exact ih _ _ (State.memWf_writeByte s _ _ h)

end Sys2Proof.Machine
end

