-- ==== Sys2Proof/Laws/PerInstr.lean ====
section
/-! SUPPORT. The statement made per instruction, about the instruction as syntax: its word fits its row of the opcode
map (30_encoding.md R75). -/

namespace Sys2Proof.Laws.EncodingRow

/-- The word of an instruction matches the mask and match of its own row of R75; UNKNOWN has no row. -/
def Statement (i : Instr) : Prop :=
  ∀ mask pat : Word, opcodeMap[i.row]? = some (mask, pat) → encode i &&& mask = pat

/-- From a row's entry to the statement. -/
theorem of_row {i : Instr} (m p : Word) (h : opcodeMap[i.row]? = some (m, p)) (hw : encode i &&& m = p) :
    Statement i := by
  intro mask pat hm
  rw [h] at hm
  obtain ⟨rfl, rfl⟩ := Prod.mk.inj (Option.some.inj hm)
  exact hw

theorem cls : Statement (.cls) :=
  of_row 0xFFFF 0x00E0 rfl (rfl)
theorem ret : Statement (.ret) :=
  of_row 0xFFFF 0x00EE rfl (rfl)
theorem jp (nnn : Addr) : Statement (.jp nnn) :=
  of_row 0xF000 0x1000 rfl ((encodeNnn_and 0x1 0xF nnn 0).trans (by simp; rfl))
theorem call (nnn : Addr) : Statement (.call nnn) :=
  of_row 0xF000 0x2000 rfl ((encodeNnn_and 0x2 0xF nnn 0).trans (by simp; rfl))
theorem seImm (x : Nibble) (kk : Byte) : Statement (.seImm x kk) :=
  of_row 0xF000 0x3000 rfl ((encodeXkk_and 0x3 x 0xF 0 kk 0).trans (by simp; rfl))
theorem sneImm (x : Nibble) (kk : Byte) : Statement (.sneImm x kk) :=
  of_row 0xF000 0x4000 rfl ((encodeXkk_and 0x4 x 0xF 0 kk 0).trans (by simp; rfl))
theorem seReg (x : Nibble) (y : Nibble) : Statement (.seReg x y) :=
  of_row 0xF00F 0x5000 rfl ((encodeXyn_and 0x5 x y 0x0 0xF 0 0 0xF).trans (by simp; rfl))
theorem ldImm (x : Nibble) (kk : Byte) : Statement (.ldImm x kk) :=
  of_row 0xF000 0x6000 rfl ((encodeXkk_and 0x6 x 0xF 0 kk 0).trans (by simp; rfl))
theorem addImm (x : Nibble) (kk : Byte) : Statement (.addImm x kk) :=
  of_row 0xF000 0x7000 rfl ((encodeXkk_and 0x7 x 0xF 0 kk 0).trans (by simp; rfl))
theorem ldReg (x : Nibble) (y : Nibble) : Statement (.ldReg x y) :=
  of_row 0xF00F 0x8000 rfl ((encodeXyn_and 0x8 x y 0x0 0xF 0 0 0xF).trans (by simp; rfl))
theorem or (x : Nibble) (y : Nibble) : Statement (.or x y) :=
  of_row 0xF00F 0x8001 rfl ((encodeXyn_and 0x8 x y 0x1 0xF 0 0 0xF).trans (by simp; rfl))
theorem and (x : Nibble) (y : Nibble) : Statement (.and x y) :=
  of_row 0xF00F 0x8002 rfl ((encodeXyn_and 0x8 x y 0x2 0xF 0 0 0xF).trans (by simp; rfl))
theorem xor (x : Nibble) (y : Nibble) : Statement (.xor x y) :=
  of_row 0xF00F 0x8003 rfl ((encodeXyn_and 0x8 x y 0x3 0xF 0 0 0xF).trans (by simp; rfl))
theorem addReg (x : Nibble) (y : Nibble) : Statement (.addReg x y) :=
  of_row 0xF00F 0x8004 rfl ((encodeXyn_and 0x8 x y 0x4 0xF 0 0 0xF).trans (by simp; rfl))
theorem sub (x : Nibble) (y : Nibble) : Statement (.sub x y) :=
  of_row 0xF00F 0x8005 rfl ((encodeXyn_and 0x8 x y 0x5 0xF 0 0 0xF).trans (by simp; rfl))
theorem shr (x : Nibble) (y : Nibble) : Statement (.shr x y) :=
  of_row 0xF00F 0x8006 rfl ((encodeXyn_and 0x8 x y 0x6 0xF 0 0 0xF).trans (by simp; rfl))
theorem subn (x : Nibble) (y : Nibble) : Statement (.subn x y) :=
  of_row 0xF00F 0x8007 rfl ((encodeXyn_and 0x8 x y 0x7 0xF 0 0 0xF).trans (by simp; rfl))
theorem shl (x : Nibble) (y : Nibble) : Statement (.shl x y) :=
  of_row 0xF00F 0x800E rfl ((encodeXyn_and 0x8 x y 0xE 0xF 0 0 0xF).trans (by simp; rfl))
theorem sneReg (x : Nibble) (y : Nibble) : Statement (.sneReg x y) :=
  of_row 0xF00F 0x9000 rfl ((encodeXyn_and 0x9 x y 0x0 0xF 0 0 0xF).trans (by simp; rfl))
theorem ldI (nnn : Addr) : Statement (.ldI nnn) :=
  of_row 0xF000 0xA000 rfl ((encodeNnn_and 0xA 0xF nnn 0).trans (by simp; rfl))
theorem jpV0 (nnn : Addr) : Statement (.jpV0 nnn) :=
  of_row 0xF000 0xB000 rfl ((encodeNnn_and 0xB 0xF nnn 0).trans (by simp; rfl))
theorem rnd (x : Nibble) (kk : Byte) : Statement (.rnd x kk) :=
  of_row 0xF000 0xC000 rfl ((encodeXkk_and 0xC x 0xF 0 kk 0).trans (by simp; rfl))
theorem drw (x : Nibble) (y : Nibble) (n : Nibble) : Statement (.drw x y n) :=
  of_row 0xF000 0xD000 rfl ((encodeXyn_and 0xD x y n 0xF 0 0 0).trans (by simp; rfl))
theorem skp (x : Nibble) : Statement (.skp x) :=
  of_row 0xF0FF 0xE09E rfl ((encodeXkk_and 0xE x 0xF 0 0x9E 0xFF).trans (by simp; rfl))
theorem sknp (x : Nibble) : Statement (.sknp x) :=
  of_row 0xF0FF 0xE0A1 rfl ((encodeXkk_and 0xE x 0xF 0 0xA1 0xFF).trans (by simp; rfl))
theorem ldVxDt (x : Nibble) : Statement (.ldVxDt x) :=
  of_row 0xF0FF 0xF007 rfl ((encodeXkk_and 0xF x 0xF 0 0x07 0xFF).trans (by simp; rfl))
theorem ldVxK (x : Nibble) : Statement (.ldVxK x) :=
  of_row 0xF0FF 0xF00A rfl ((encodeXkk_and 0xF x 0xF 0 0x0A 0xFF).trans (by simp; rfl))
theorem ldDtVx (x : Nibble) : Statement (.ldDtVx x) :=
  of_row 0xF0FF 0xF015 rfl ((encodeXkk_and 0xF x 0xF 0 0x15 0xFF).trans (by simp; rfl))
theorem ldStVx (x : Nibble) : Statement (.ldStVx x) :=
  of_row 0xF0FF 0xF018 rfl ((encodeXkk_and 0xF x 0xF 0 0x18 0xFF).trans (by simp; rfl))
theorem addI (x : Nibble) : Statement (.addI x) :=
  of_row 0xF0FF 0xF01E rfl ((encodeXkk_and 0xF x 0xF 0 0x1E 0xFF).trans (by simp; rfl))
theorem ldF (x : Nibble) : Statement (.ldF x) :=
  of_row 0xF0FF 0xF029 rfl ((encodeXkk_and 0xF x 0xF 0 0x29 0xFF).trans (by simp; rfl))
theorem ldB (x : Nibble) : Statement (.ldB x) :=
  of_row 0xF0FF 0xF033 rfl ((encodeXkk_and 0xF x 0xF 0 0x33 0xFF).trans (by simp; rfl))
theorem ldMemVx (x : Nibble) : Statement (.ldMemVx x) :=
  of_row 0xF0FF 0xF055 rfl ((encodeXkk_and 0xF x 0xF 0 0x55 0xFF).trans (by simp; rfl))
theorem ldVxMem (x : Nibble) : Statement (.ldVxMem x) :=
  of_row 0xF0FF 0xF065 rfl ((encodeXkk_and 0xF x 0xF 0 0x65 0xFF).trans (by simp; rfl))
theorem unknown (w : Word) : Statement (.unknown w) := by
  intro mask pat h; exact absurd h (by simp [Instr.row, opcodeMap])

end Sys2Proof.Laws.EncodingRow
end

