-- ==== Sys2Proof/Tests/Slice0.lean ====
section
/-! SUPPORT. Tests of the model's own: ill-formed terms, one word of every instruction written out from the encodings
of 30_encoding.md R75 and R81, single steps from the vectors of 95_test_vectors.md section 2 (each theorem names its
vector), and for every statement with hypotheses a state and operands that meet them. -/

namespace Sys2Proof.Tests

open Sys2Proof.Machine

/-! ### Helpers -/

/-- The state after reset. -/
def base : State := State.reset

/-- One step of a state with a word placed where it fetches. -/
def go (s : State) (w : Word) : State :=
  match step (s.placeWord w) with
  | .next t => t
  | .fault _ | .refused _ => s

/-- The state after a handler. -/
def handled (i : Instr) (s : State) : State :=
  match exec i s with
  | .next t => t
  | .fault _ | .refused _ => s

/-- A state with bytes in memory from 0x300 and `I` there. -/
def withSprite (bs : List Byte) : State := (base.writeBytes 0x300 bs).setIndex 0x300

/-- The lit columns of a row. -/
def litIn (s : State) (r : Coord) : List Nat := (List.range 64).filter fun c => s.pixel r (BitVec.ofNat 6 c)

/-- The state after reset where Fx0A waits. -/
def blocking : State := State.resetWith { Config.defaultParams with keywaitBlocking := true }

/-- The state after reset where ExA1 is negated. -/
def negated : State := State.resetWith { Config.defaultParams with sknpNegated := true }

/-! ### Well-formedness: the one check, on each line of R77's table and next to it -/

theorem test_illformed_exact : (Instr.unknown 0x00E0).wellFormed = false ∧ (Instr.unknown 0x00EE).wellFormed = false := by
  decide
theorem test_illformed_patterns :
    [0x1234, 0x2300, 0x332A, 0x432A, 0x5120, 0x600A, 0x7220, 0x8127, 0x812E, 0x9120, 0xA2F0, 0xB300, 0xC30F, 0xD011,
     0xE29E, 0xE2A1, 0xF307, 0xF30A, 0xF315, 0xF318, 0xF11E, 0xF029, 0xF333, 0xF255, 0xF265].all
      (fun w => !(Instr.unknown w).wellFormed) = true := by decide
theorem test_wellformed_unknown :
    [0x0000, 0x00E1, 0x0FFF, 0x5121, 0x512F, 0x8128, 0x812D, 0x812F, 0x9121, 0xE29D, 0xE2A2, 0xF300, 0xF3FF].all
      (fun w => (Instr.unknown w).wellFormed) = true := by decide

/-! ### Decoding: a word of every instruction, from R75's patterns and R81's formulas -/

theorem test_decode_exact : decode 0x00E0 = .cls ∧ decode 0x00EE = .ret := by decide
theorem test_decode_nnn : decode 0x1234 = .jp 0x234 ∧ decode 0x2300 = .call 0x300 ∧ decode 0xA2F0 = .ldI 0x2F0 ∧
    decode 0xBFFF = .jpV0 0xFFF := by decide
theorem test_decode_xkk : decode 0x332A = .seImm 3 0x2A ∧ decode 0x4E01 = .sneImm 14 1 ∧ decode 0x600A = .ldImm 0 10 ∧
    decode 0x72F0 = .addImm 2 0xF0 ∧ decode 0xC30F = .rnd 3 0x0F := by decide
theorem test_decode_xy : decode 0x5120 = .seReg 1 2 ∧ decode 0x9120 = .sneReg 1 2 ∧ decode 0x8010 = .ldReg 0 1 ∧
    decode 0x8AB1 = .or 10 11 ∧ decode 0x8AB2 = .and 10 11 ∧ decode 0x8AB3 = .xor 10 11 := by decide
theorem test_decode_xy_flags : decode 0x8014 = .addReg 0 1 ∧ decode 0x8F15 = .sub 15 1 ∧ decode 0x8476 = .shr 4 7 ∧
    decode 0x8017 = .subn 0 1 ∧ decode 0x840E = .shl 4 0 := by decide
theorem test_decode_xyn : decode 0xD012 = .drw 0 1 2 ∧ decode 0xDF01 = .drw 15 0 1 := by decide
theorem test_decode_keys : decode 0xE29E = .skp 2 ∧ decode 0xE2A1 = .sknp 2 := by decide
theorem test_decode_timers : decode 0xF307 = .ldVxDt 3 ∧ decode 0xF50A = .ldVxK 5 ∧ decode 0xF315 = .ldDtVx 3 ∧
    decode 0xF018 = .ldStVx 0 := by decide
theorem test_decode_memory : decode 0xF11E = .addI 1 ∧ decode 0xF029 = .ldF 0 ∧ decode 0xF333 = .ldB 3 ∧
    decode 0xF255 = .ldMemVx 2 ∧ decode 0xF265 = .ldVxMem 2 := by decide
theorem test_decode_unknown : decode 0x0000 = .unknown 0x0000 ∧ decode 0x5121 = .unknown 0x5121 ∧
    decode 0x8128 = .unknown 0x8128 ∧ decode 0xF0FF = .unknown 0xF0FF := by decide
/-- R81's example: `LD V0,10` lies in memory as 60, 0A; and R70's two bytes are needed. -/
theorem test_bytes : encodeBytes (.ldImm 0 10) = [0x60, 0x0A] ∧
    decodeBytes [0x80, 0x14, 0x99] = .ok (.addReg 0 1, [0x99]) ∧ decodeBytes [0x60] = .error .truncated :=
  ⟨by decide, rfl, rfl⟩
/-- No word matches two rows of R75 (R74): two rows differ in a bit that both fix. -/
theorem test_rows_disjoint :
    opcodeMap.Pairwise (fun a b => a.2 &&& (a.1 &&& b.1) ≠ b.2 &&& (a.1 &&& b.1)) := by decide

/-! ### The step and UNKNOWN (2.1) -/

/-- V-S1. -/
theorem test_unknown : (go base 0x0000).pc = 0x202 ∧ (go base 0x0000).sc = 1 ∧
    (go base 0x0000).events = [.unknownOpcode 0x200 0x0000] := by decide
/-- V-S4: the tick. -/
theorem test_unknown_ticks :
    let t := go { base with dt := 1, sc := 15 } 0x0000
    t.sc = 0 ∧ t.dt = 0 ∧ t.events = [.unknownOpcode 0x200 0x0000, .timerTick] := by decide
/-- V-S5: a fetch at the last byte faults, and nothing else changes. -/
theorem test_fetch_fault : step (base.setPc 0xFFF) = .next { base.setPc 0xFFF with run := .faulted (.fetchOutOfRange 0xFFF) } :=
  rfl
/-- V-S7: the last fetchable address. -/
theorem test_last_fetch :
    let t := go (base.setPc 0xFFE) 0x6007
    t.reg 0 = 7 ∧ t.pc = 0x1000 ∧ t.sc = 1 ∧ t.run = .running := by decide
/-- V-S10: an odd address, and the re-mask of `I`. -/
theorem test_odd_pc_and_mask :
    let t := go { base with pc := 0x201, i := 0x1003 } 0x6109
    t.reg 1 = 9 ∧ t.pc = 0x203 ∧ t.i = 0x003 ∧ t.sc = 1 := by decide

/-! ### Control flow (2.2) -/

/-- V-C1. -/
theorem test_jp : (go base 0x1234).pc = 0x234 := by decide
/-- V-C4: the 16th push goes to slot 0. -/
theorem test_call_wraps :
    let t := go { base with sp := 15 } 0x2300
    t.sp = 0 ∧ t.slot 0 = 0x202 ∧ t.pc = 0x300 := by decide
/-- V-C3. -/
theorem test_call : (go base 0x2300).sp = 1 ∧ (go base 0x2300).slot 1 = 0x202 := by decide
/-- V-C5: a return with no call. -/
theorem test_ret_wraps : (go base 0x00EE).pc = 0 ∧ (go base 0x00EE).sp = 15 := by decide
/-- V-C6: the slot is not cleared. -/
theorem test_ret :
    let t := go { base.push 0x204 with pc := 0x300 } 0x00EE
    t.pc = 0x204 ∧ t.sp = 0 ∧ t.slot 1 = 0x204 := by decide
/-- V-C7, V-C8: past 4095, not wrapped. -/
theorem test_jpV0 : (go (base.setReg 0 4) 0xB300).pc = 0x304 ∧ (go (base.setReg 0 0xFF) 0xBFFF).pc = 0x10FE := by decide
/-- V-C9, V-C10. -/
theorem test_seImm : (go (base.setReg 3 0x2A) 0x332A).pc = 0x204 ∧ (go (base.setReg 3 0x2B) 0x332A).pc = 0x202 := by
  decide
/-- V-C17: a skip past the end. -/
theorem test_seImm_at_end : (go (base.setPc 0xFFC) 0x3000).pc = 0x1000 := by decide
/-- V-C11, V-C12. -/
theorem test_sneImm : (go (base.setReg 3 0x2A) 0x432A).pc = 0x202 ∧ (go base 0x432A).pc = 0x204 := by decide
/-- V-C13, V-C14. -/
theorem test_seReg : (go ((base.setReg 1 7).setReg 2 7) 0x5120).pc = 0x204 ∧
    (go ((base.setReg 1 7).setReg 2 8) 0x5120).pc = 0x202 := by decide
/-- V-C15, V-C16. -/
theorem test_sneReg : (go ((base.setReg 1 7).setReg 2 8) 0x9120).pc = 0x204 ∧ (go (base.setReg 1 7) 0x9110).pc = 0x202 := by
  decide

/-! ### Loads, ALU, random (2.3) -/

/-- S1's first line. -/
theorem test_ldImm : (go base 0x600A).reg 0 = 10 := by decide
/-- R121's example: no flag on overflow. -/
theorem test_addImm :
    let t := go ((base.setReg 2 0xF0).setReg 15 7) 0x7220
    t.reg 2 = 0x10 ∧ t.reg 15 = 7 := by decide
/-- R122's example. -/
theorem test_ldReg : (go (base.setReg 1 0x33) 0x8010).reg 0 = 0x33 := by decide
/-- R123's to R125's examples, and V-A9; the flag register stays. -/
theorem test_logic :
    let s := (base.setReg 0 0xF0).setReg 15 7
    (go (s.setReg 1 0x0F) 0x8011).reg 0 = 0xFF ∧ (go (s.setReg 1 0x3C) 0x8012).reg 0 = 0x30 ∧
    (go (s.setReg 1 0x3C) 0x8013).reg 0 = 0xCC ∧ (go s 0x8003).reg 0 = 0 ∧ (go s 0x8011).reg 15 = 7 := by decide
/-- V-A11, V-A13. -/
theorem test_addReg :
    let t := go ((base.setReg 0 255).setReg 1 1) 0x8014
    let u := go ((base.setReg 0 128).setReg 1 127) 0x8014
    t.reg 0 = 0 ∧ t.reg 15 = 1 ∧ u.reg 0 = 255 ∧ u.reg 15 = 0 := by decide
/-- V-A15, V-A16: the flag register as source, and as destination. -/
theorem test_addReg_vf :
    let t := go ((base.setReg 0 5).setReg 15 1) 0x80F4
    t.reg 0 = 6 ∧ t.reg 15 = 0 ∧ (go ((base.setReg 15 200).setReg 1 100) 0x8F14).reg 15 = 0x2C := by decide
/-- V-A17, V-A18. -/
theorem test_sub :
    let t := go ((base.setReg 0 10).setReg 1 5) 0x8015
    let u := go ((base.setReg 0 5).setReg 1 10) 0x8015
    t.reg 0 = 5 ∧ t.reg 15 = 1 ∧ u.reg 0 = 0xFB ∧ u.reg 15 = 0 := by decide
/-- V-A19, V-A21: equal operands give no flag; the result wins in the flag register. -/
theorem test_sub_corners :
    let t := go ((base.setReg 0 7).setReg 1 7) 0x8015
    t.reg 0 = 0 ∧ t.reg 15 = 0 ∧ (go ((base.setReg 15 9).setReg 1 3) 0x8F15).reg 15 = 6 := by decide
/-- V-A23: `y` is ignored. -/
theorem test_shr :
    let t := go ((base.setReg 4 0xFF).setReg 7 0x11) 0x8476
    t.reg 4 = 0x7F ∧ t.reg 15 = 1 ∧ t.reg 7 = 0x11 := by decide
/-- V-A25. -/
theorem test_shr_vf : (go (base.setReg 15 6) 0x8F06).reg 15 = 3 := by decide
/-- V-A26, V-A27. -/
theorem test_subn :
    let t := go ((base.setReg 0 10).setReg 1 5) 0x8017
    let u := go ((base.setReg 0 5).setReg 1 10) 0x8017
    t.reg 0 = 0xFB ∧ t.reg 15 = 0 ∧ u.reg 0 = 5 ∧ u.reg 15 = 1 := by decide
/-- V-A29, V-A30. -/
theorem test_shl :
    let t := go (base.setReg 4 0x81) 0x840E
    let u := go (base.setReg 4 0x7F) 0x840E
    t.reg 4 = 2 ∧ t.reg 15 = 1 ∧ u.reg 4 = 0xFE ∧ u.reg 15 = 0 := by decide
/-- V-A32: the byte presented at `rand`, which is then gone. -/
theorem test_rnd :
    let t := go (base.hostPresentRand 0xA7) 0xC30F
    t.reg 3 = 7 ∧ t.rand = none ∧ t.draws = 1 := by decide
/-- V-A33: a zero mask gives 0 whatever the free byte is. -/
theorem test_rnd_free : (go (base.setReg 3 9) 0xC300).reg 3 = 0 := by
  show base.randByte &&& (0 : Byte) = 0
  simp

/-! ### Index and memory (2.4) -/

/-- V-M1. -/
theorem test_ldI : (go base 0xA2F0).i = 0x2F0 := by decide
/-- V-M2, V-S8: unreduced after the step, masked before the next. -/
theorem test_addI : (go { base.setReg 1 5 with i := 0xFFE } 0xF11E).i = 0x1003 ∧
    (go { base.setReg 1 1 with i := 0x10FD } 0xF11E).i = 0x00FE := by decide
/-- V-M3, V-M5. -/
theorem test_ldF : (go (base.setReg 0 5) 0xF029).i = 0x019 ∧ (go (base.setReg 0 255) 0xF029).i = 0x4FB := by decide
/-- V-M6. -/
theorem test_ldB :
    let t := go { base.setReg 3 255 with i := 0x300 } 0xF333
    t.readByte 0x300 = 2 ∧ t.readByte 0x301 = 5 ∧ t.readByte 0x302 = 5 := by decide
/-- V-M8: the digits wrap into the glyph table. -/
theorem test_ldB_wraps :
    let t := go { base.setReg 3 254 with i := 0xFFF } 0xF333
    t.readByte 0xFFF = 2 ∧ t.readByte 0x000 = 5 ∧ t.readByte 0x001 = 4 := by decide
/-- V-M9. -/
theorem test_ldMemVx :
    let t := go { ((base.setReg 0 1).setReg 1 2).setReg 2 3 with i := 0x300 } 0xF255
    t.readByte 0x300 = 1 ∧ t.readByte 0x301 = 2 ∧ t.readByte 0x302 = 3 ∧ t.i = 0x300 := by decide
/-- V-M10: sixteen registers across the top of memory. -/
theorem test_ldMemVx_wraps :
    let t := go { (base.setReg 7 0xA7).setReg 15 0xAF with i := 0xFF8 } 0xFF55
    t.readByte 0xFFF = 0xA7 ∧ t.readByte 0x007 = 0xAF ∧ t.readByte 0x008 = 0x20 := by decide
/-- V-M11. -/
theorem test_ldVxMem :
    let t := go (withSprite [9, 8, 7]) 0xF265
    t.reg 0 = 9 ∧ t.reg 1 = 8 ∧ t.reg 2 = 7 ∧ t.i = 0x300 := by decide
/-- V-M12: the second byte comes from address 0, with the default glyphs. -/
theorem test_ldVxMem_wraps :
    let t := go ((base.writeByte 0xFFF 0x77).setIndex 0xFFF) 0xF165
    t.reg 0 = 0x77 ∧ t.reg 1 = 0xF0 := by decide

/-! ### Display (2.5) -/

/-- V-D9. -/
theorem test_cls :
    let t := go ((base.setPixel 40 5 true).setReg 15 3) 0x00E0
    litIn t 40 = [] ∧ t.reg 15 = 3 := by decide
/-- V-D1, V-D2: bit 7 leftmost; drawn again the sprite is gone, with the flag. -/
theorem test_drw_collision :
    let s := ((withSprite [0xC0]).setReg 0 2).setReg 1 1
    let t := go s 0xD011
    let u := go ((s.setPixel 1 2 true).setPixel 1 3 true) 0xD011
    litIn t 1 = [2, 3] ∧ t.reg 15 = 0 ∧ litIn u 1 = [] ∧ u.reg 15 = 1 := by decide
/-- V-D3: a sprite wraps at both edges. -/
theorem test_drw_wraps :
    let t := go (((withSprite [0xFF, 0x81]).setReg 0 63).setReg 1 63) 0xD012
    litIn t 63 = [0, 1, 2, 3, 4, 5, 6, 63] ∧ litIn t 0 = [6, 63] ∧ t.reg 15 = 0 := by decide

/-! ### Keypad and timers (2.6) -/

/-- V-T1, V-T2. -/
theorem test_skp : (go ((base.setReg 2 10).hostSetKey 10 true) 0xE29E).pc = 0x204 ∧
    (go (base.setReg 2 10) 0xE29E).pc = 0x202 := by decide
/-- V-T3: the fault discards the step. -/
theorem test_skp_fault :
    let t := go { base.setReg 2 16 with i := 0x1003, sc := 15, dt := 4 } 0xE29E
    t.run = .faulted (.keyIndexOutOfRange 16) ∧ t.pc = 0x200 ∧ t.sc = 15 ∧ t.i = 0x1003 ∧ t.dt = 4 := by decide
/-- V-T4. -/
theorem test_sknp_up : (go (base.setReg 2 3) 0xE2A1).pc = 0x202 ∧ (go (negated.setReg 2 3) 0xE2A1).pc = 0x204 := by
  decide
/-- V-T5. -/
theorem test_sknp_down : (go ((base.setReg 2 3).hostSetKey 3 true) 0xE2A1).pc = 0x204 ∧
    (go ((negated.setReg 2 3).hostSetKey 3 true) 0xE2A1).pc = 0x202 := by decide
/-- V-T6, V-T7. -/
theorem test_ldDtVx : (go { base.setReg 3 5 with sc := 3 } 0xF315).dt = 5 ∧
    (go { base.setReg 3 5 with sc := 15 } 0xF315).dt = 4 := by decide
/-- V-T10: read before the tick. -/
theorem test_ldVxDt :
    let t := go { base with dt := 7, sc := 15 } 0xF307
    t.reg 3 = 7 ∧ t.dt = 6 ∧ t.sc = 0 := by decide
/-- V-T11. -/
theorem test_ldStVx : (go { base.setReg 0 0x20 with sc := 15 } 0xF018).st = 0x20 := by decide
/-- V-T12. -/
theorem test_ldVxK :
    let t := go ((base.setReg 5 0x33).hostSetKey 1 true) 0xF50A
    t.pc = 0x202 ∧ t.reg 5 = 0x33 ∧ t.run = .running := by decide
/-- V-T13, the suspending step. -/
theorem test_ldVxK_blocking :
    let t := go (blocking.setReg 5 0x33) 0xF50A
    t.pc = 0x202 ∧ t.sc = 1 ∧ t.run = .awaitingKey 5 := by decide
/-- V-T13, the delivering step: the least key down. -/
theorem test_key_wait_delivers :
    let s := { (blocking.hostSetKey 7 true).hostSetKey 9 true with pc := 0x202, sc := 1, run := .awaitingKey 5 }
    ∃ t, step s = .next t ∧ t.reg 5 = 7 ∧ t.run = .running ∧ t.pc = 0x202 ∧ t.sc = 1 :=
  ⟨_, rfl, by decide⟩

/-! ### Reset and load (2.7) -/

/-- V-R1, with the default glyphs. -/
theorem test_reset_memory :
    [0x000, 0x001, 0x004, 0x04B, 0x04D, 0x04F, 0x050, 0x200, 0xFFF].map base.readByte =
      [0xF0, 0x90, 0xF0, 0xF0, 0xF0, 0x80, 0, 0, 0] := by decide
/-- S1's image after load. -/
theorem test_load :
    let s := State.launch Config.defaultParams [0x60, 0x0A]
    s.readByte 0x200 = 0x60 ∧ s.readByte 0x201 = 0x0A ∧ s.readByte 0x202 = 0 ∧ s.fetchWord = some 0x600A := by decide
/-- The host's two names, on S1's first word: the table's decoder, and the first step after reset. -/
theorem test_host_names : decodeTableWord 16 0x600A = some (.ldImm 0 10) ∧
    ∃ t, step (State.reset.withFetchWord 16 0x600A) = .next t ∧ t.reg 0 = 10 := ⟨rfl, _, rfl, by decide⟩

/-! ### For every statement with hypotheses, what meets them

One theorem for each, named after the statement; where it has several clauses, one part for each, at the boundary of
its range where it has one. -/

/-- The last fetchable `PC`. -/
theorem test_witness_StepRunsDecodedInstruction :
    let s := (base.setPc 0xFFE).placeWord 0x6007
    s.run = .running ∧ s.pc.toNat < 4095 ∧
      decode (s.readByte (BitVec.ofNat 12 s.pc.toNat) ++ s.readByte (BitVec.ofNat 12 (s.pc.toNat + 1))) = .ldImm 0 7 := by
  decide
/-- A handler that raised, and two that did not, with and without the tick. -/
theorem test_witness_CommitTicksOrDiscards :
    (handled (.skp 2) (base.setReg 2 16)).run = .faulted (.keyIndexOutOfRange 16) ∧
    (handled .cls { base with dt := 1 }).safe = true ∧ (handled .cls { base with dt := 1 }).sc = 0 ∧
    (handled .cls { base with dt := 1 }).dt ≠ 0 ∧ (handled .cls { base with dt := 1 }).params.optionalEvents = true ∧
    (handled .cls { base with sc := 15 }).safe = true ∧ (handled .cls { base with sc := 15 }).sc ≠ 0 := by decide
theorem test_witness_FetchPastEndFaults : (base.setPc 4095).run = .running ∧ 4095 ≤ (base.setPc 4095).pc.toNat := by decide
theorem test_witness_FaultedMachineIsFrozen :
    (base.raise (.fetchOutOfRange 0x1000)).run = .faulted (.fetchOutOfRange 0x1000) := rfl
theorem test_witness_UnknownWordIsSkippedAndReported :
    let s := { base.placeWord 0x8128 with sc := 15, dt := 1 }
    s.run = .running ∧ s.fetchWord = some 0x8128 ∧ decode 0x8128 = .unknown 0x8128 := by decide
theorem test_witness_DelayTimerCadence :
    ∃ t, QuietSteps 1 { base.placeWord 0x600A with sc := 15, dt := 1 } t ∧ t.dt = 0 :=
  ⟨_, ⟨.ldImm 0 10, _, ⟨rfl, 0x600A, by decide, by decide⟩, nofun, rfl, rfl, rfl⟩, by decide⟩
/-- Key 15, the last, the least that is down; and no key down. -/
theorem test_witness_KeyWaitDeliversLeastKey :
    let s := blocking.awaitKey 5
    let t := s.hostSetKey 15 true
    (s.run = .awaitingKey 5 ∧ ∀ k : Nibble, s.keyDown k = false) ∧
    (t.run = .awaitingKey 5 ∧ t.keyDown 15 = true ∧ ∀ j : Nibble, j < 15 → t.keyDown j = false) := by
  refine ⟨⟨rfl, by decide⟩, rfl, by decide, by decide⟩
/-- The bound of both clauses: sixteen targets. -/
theorem test_witness_NestedCallsReturn :
    (List.replicate 16 (0x300 : Addr)).length ≤ 16 ∧ (List.replicate 16 (0x300 : Addr)).length = 16 := by decide
/-- `x` = 0 for the flag clauses of ADD, SUB, SUBN, SHR, SHL, at a sum of 255 and of 256. -/
theorem test_witness_flag_clauses : (0 : Nibble) ≠ 15 ∧ (14 : Nibble) ≠ 15 ∧
    ¬ ((255 : Byte).toNat + (0 : Byte).toNat > 255) ∧ (255 : Byte).toNat + (1 : Byte).toNat > 255 := by decide
theorem test_witness_RandomByteIsMasked : (base.hostPresentRand 0xA7).rand = some 0xA7 := rfl
theorem test_witness_OnlyRndReadsRand : ∀ (x : Nibble) (kk : Byte), Instr.drw 0 1 5 ≠ .rnd x kk := nofun
/-- The largest masked `I`. -/
theorem test_witness_AddIndexKeepsTheCarry : (base.setIndex 4095).i.toNat ≤ 4095 := by decide
/-- The last register of the longest block. -/
theorem test_witness_block_moves : (15 : Nibble) ≤ 15 ∧ (0 : Nibble) ≤ 0 := by decide
theorem test_witness_BlockLoadRestoresBlockStore :
    let s := (base.setReg 15 9).setIndex 0xFF8
    let t := handled (.ldMemVx 15) s
    exec (.ldMemVx 15) s = .next t ∧ (t.setReg 15 0).i = s.i ∧ SameMemory t (t.setReg 15 0) ∧
      exec (.ldVxMem 15) (t.setReg 15 0) = .next (handled (.ldVxMem 15) (t.setReg 15 0)) ∧ (15 : Nibble) ≤ 15 :=
  ⟨rfl, rfl, fun _ => rfl, rfl, by decide⟩
theorem test_witness_StoredWordIsFetched :
    let s := base.setIndex 0x200
    let t := handled (.ldMemVx 1) s
    1 ≤ (1 : Nibble).toNat ∧ exec (.ldMemVx 1) s = .next t ∧ t.pc = s.i ∧ s.i.toNat < 4095 :=
  ⟨by decide, rfl, rfl, by decide⟩
/-- Both clauses of the flag: a lit pixel under the sprite (the glyph of 0), and a dark display. -/
theorem test_witness_DrawXorsTheSprite :
    (∃ r c, (base.setPixel 0 0 true).pixel r c = true ∧ spriteOver (base.setPixel 0 0 true) 0 0 5 r c = true) ∧
    ¬ ∃ r c, base.pixel r c = true ∧ spriteOver base 0 0 5 r c = true := by
  refine ⟨⟨0, 0, by decide, by decide⟩, fun ⟨r, c, h, _⟩ => ?_⟩
  simp [State.pixel, base, State.reset, State.resetWith] at h
/-- Also for `x` = 15, the flag register put back. -/
theorem test_witness_DrawTwiceRestores :
    let s := withSprite [0xC0]
    let t := handled (.drw 15 1 1) s
    let u := t.setReg 15 0
    exec (.drw 15 1 1) s = .next t ∧ u.reg 15 = s.reg 15 ∧ u.reg 1 = s.reg 1 ∧ u.i = s.i ∧ SameMemory s u ∧
      SameDisplay t u ∧ exec (.drw 15 1 1) u = .next (handled (.drw 15 1 1) u) := by
  refine ⟨rfl, by decide, by decide, rfl, fun _ => rfl, fun _ _ => rfl, rfl⟩
/-- The last key. -/
theorem test_witness_KeySkipsTestTheKey : ((base.setReg 2 15).reg 2).toNat = (15 : Nibble).toNat := by decide
/-- The first value past the last key, for both instructions. -/
theorem test_witness_KeyIndexFaultDiscardsTheStep :
    ((base.setReg 2 16).placeWord 0xE29E).Executes (.skp 2) ∧ ((base.setReg 2 16).placeWord 0xE2A1).Executes (.sknp 2) ∧
      15 < ((base.setReg 2 16).reg 2).toNat :=
  ⟨⟨rfl, 0xE29E, by decide, by decide⟩, ⟨rfl, 0xE2A1, by decide, by decide⟩, by decide⟩
/-- On a tick step and on another. -/
theorem test_witness_DelayTimerOnATickStep :
    ({ base.placeWord 0xF315 with sc := 15 } : State).Executes (.ldDtVx 3) ∧ (base.placeWord 0xF315).Executes (.ldDtVx 3) ∧
    ({ base.placeWord 0xF307 with sc := 15 } : State).Executes (.ldVxDt 3) ∧ (base.placeWord 0xF307).Executes (.ldVxDt 3) :=
  ⟨⟨rfl, 0xF315, by decide, by decide⟩, ⟨rfl, 0xF315, by decide, by decide⟩, ⟨rfl, 0xF307, by decide, by decide⟩,
    ⟨rfl, 0xF307, by decide, by decide⟩⟩
theorem test_witness_KeyWaitIsNoOpOrSuspends :
    base.params.keywaitBlocking = false ∧ blocking.params.keywaitBlocking = true := by decide
/-- A destination, and the flag register. -/
theorem test_witness_RegisterWriters :
    (exec (.ldImm 3 7) base = .next (base.setReg 3 7) ∧ (base.setReg 3 7).reg 3 ≠ base.reg 3) ∧
    (exec (.drw 0 1 0) (base.setReg 15 1) = .next (handled (.drw 0 1 0) (base.setReg 15 1)) ∧
      (handled (.drw 0 1 0) (base.setReg 15 1)).reg 15 ≠ (base.setReg 15 1).reg 15) :=
  ⟨⟨rfl, by decide⟩, rfl, by decide⟩
theorem test_witness_IndexWriters : exec (.ldI 5) base = .next (base.setIndex 5) ∧ (base.setIndex 5).i ≠ base.i :=
  ⟨rfl, by decide⟩
theorem test_witness_MemoryAndDisplayWriters :
    (exec (.ldB 3) base = .next (handled (.ldB 3) base) ∧ ¬ SameMemory base (handled (.ldB 3) base)) ∧
    (exec .cls (base.setPixel 0 0 true) = .next (base.setPixel 0 0 true).clearDisplay ∧
      ¬ SameDisplay (base.setPixel 0 0 true) (base.setPixel 0 0 true).clearDisplay) :=
  ⟨⟨rfl, fun h => absurd (h 0) (by decide)⟩, rfl, fun h => absurd (h 0 0) (by decide)⟩
theorem test_witness_ControlWriters :
    let t := handled (.call 0x300) base
    exec (.call 0x300) base = .next t ∧ t.pc ≠ base.pc ∧ t.sp ≠ base.sp ∧ ∃ k, t.slot k ≠ base.slot k :=
  ⟨rfl, by decide, by decide, 1, by decide⟩
theorem test_witness_TimerRunAndKeyWriters :
    (exec (.ldDtVx 3) (base.setReg 3 5) = .next (handled (.ldDtVx 3) (base.setReg 3 5)) ∧
      (handled (.ldDtVx 3) (base.setReg 3 5)).dt ≠ base.dt) ∧
    (exec (.ldStVx 3) (base.setReg 3 5) = .next (handled (.ldStVx 3) (base.setReg 3 5)) ∧
      (handled (.ldStVx 3) (base.setReg 3 5)).st ≠ base.st) ∧
    (exec (.ldVxK 3) blocking = .next (handled (.ldVxK 3) blocking) ∧ (handled (.ldVxK 3) blocking).run ≠ blocking.run) :=
  ⟨⟨rfl, by decide⟩, ⟨rfl, by decide⟩, rfl, by decide⟩
theorem test_witness_OnlyKeySkipsReadKeys : ∀ x : Nibble, Instr.cls ≠ .skp x ∧ Instr.cls ≠ .sknp x :=
  fun _ => ⟨nofun, nofun⟩
theorem test_witness_SoundTimerNeverRunsDown :
    ∃ t, step ((base.setReg 0 0x20).placeWord 0xF018) = .next t ∧ t.st ≠ ((base.setReg 0 0x20).placeWord 0xF018).st :=
  ⟨_, rfl, by decide⟩
/-- The invariant holds after reset, and the step from there answers a next state. -/
theorem test_witness_StepKeepsInvariant : base.Inv ∧ ∃ t, step base = .next t :=
  ⟨⟨by decide, by decide, by decide, by decide, nofun⟩, _, rfl⟩
theorem test_witness_DecodeEncode : (Instr.shr 4 7).wellFormed = true ∧ (Instr.unknown 0x8128).wellFormed = true := by decide
/-- The first row and the last. -/
theorem test_witness_DecoderFollowsOpcodeMap :
    opcodeMap[0]? = some (0xFFFF, 0x00E0) ∧ opcodeMap[33]? = some (0xF0FF, 0xF065) := by decide
/-- The last byte of the glyph table, the first after it, the last of memory. -/
theorem test_witness_ResetValues : 79 < 80 ∧ 80 ≤ 80 ∧ 80 < 4096 ∧ 80 ≤ 4095 ∧ 4095 < 4096 := by decide
/-- The longest image, its last byte, and the addresses just below and, for a shorter one, just above. -/
theorem test_witness_LoadWritesTheImage :
    (List.replicate 3584 (0xAA : Byte)).length ≤ 3584 ∧ 3583 < (List.replicate 3584 (0xAA : Byte)).length ∧
    (0x1FF : Addr).toNat < 0x200 ∧ 0x200 + (List.replicate 3583 (0xAA : Byte)).length ≤ (0xFFF : Addr).toNat := by
  simp only [List.length_replicate]; decide
theorem test_witness_LoadOverflowWritesNothing : 3584 < (List.replicate 3585 (0xAA : Byte)).length := by
  simp only [List.length_replicate]; decide
/-- The longest row; a `PC` that can be fetched at and one that cannot; a byte apart from the two written. -/
theorem test_witness_PlacedWordIsFetched :
    16 ≤ 16 ∧ (base.setPc 4094).pc.toNat < 4095 ∧ ((base.setPc 4095).withFetchWord 16 0x600A).pc = 0x200 ∧
    (0x202 : Addr).toNat ≠ ((base.setPc 4095).withFetchWord 16 0x600A).pc.toNat + 1 := by decide

end Sys2Proof.Tests
end

section
/-! PROOFS. Control transfer (41_control_flow.md): the words of R81 decode to the transfers, each handler is one
update of the state, and the statements follow from what that update does and leaves alone. -/

namespace Sys2Proof.Machine

/-! ### The words decode to the instructions -/

theorem decode_ret : decode 0x00EE = .ret := by decide

theorem decode_jp (nnn : Addr) : decode (wordNnn 0x1000 nnn) = .jp nnn := by
  rw [show wordNnn 0x1000 nnn = encodeNnn 0x1 nnn from wordNnn_eq 0x1 nnn]
  simp [decode]

theorem decode_call (nnn : Addr) : decode (wordNnn 0x2000 nnn) = .call nnn := by
  rw [show wordNnn 0x2000 nnn = encodeNnn 0x2 nnn from wordNnn_eq 0x2 nnn]
  simp [decode]

theorem decode_seImm (x : Nibble) (kk : Byte) : decode (wordXkk 0x3000 x kk) = .seImm x kk := by
  rw [show wordXkk 0x3000 x kk = encodeXkk 0x3 x kk from wordXkk_eq 0x3 x kk]
  simp [decode]

theorem decode_sneImm (x : Nibble) (kk : Byte) : decode (wordXkk 0x4000 x kk) = .sneImm x kk := by
  rw [show wordXkk 0x4000 x kk = encodeXkk 0x4 x kk from wordXkk_eq 0x4 x kk]
  simp [decode]

theorem decode_seReg (x y : Nibble) : decode (wordXy 0x5000 x y) = .seReg x y := by
  rw [show wordXy 0x5000 x y = encodeXyn 0x5 x y 0x0 from wordXy_eq 0x5 x y 0x0]
  simp [decode]

theorem decode_sneReg (x y : Nibble) : decode (wordXy 0x9000 x y) = .sneReg x y := by
  rw [show wordXy 0x9000 x y = encodeXyn 0x9 x y 0x0 from wordXy_eq 0x9 x y 0x0]
  simp [decode]

/-! ### Each handler is one update of the state -/

variable (s : State)

theorem exec_ret : exec .ret s = .next s.popPc := rfl

theorem exec_jp (nnn : Addr) : exec (.jp nnn) s = .next (s.setPc (zextAddr nnn)) := rfl

theorem exec_call (nnn : Addr) : exec (.call nnn) s = .next ((s.push s.pc).setPc (zextAddr nnn)) := rfl

theorem exec_seImm (x : Nibble) (kk : Byte) : exec (.seImm x kk) s = .next (s.skipIf (s.reg x == kk)) := rfl

theorem exec_sneImm (x : Nibble) (kk : Byte) : exec (.sneImm x kk) s = .next (s.skipIf (s.reg x != kk)) := rfl

theorem exec_seReg (x y : Nibble) : exec (.seReg x y) s = .next (s.skipIf (s.reg x == s.reg y)) := rfl

theorem exec_sneReg (x y : Nibble) : exec (.sneReg x y) s = .next (s.skipIf (s.reg x != s.reg y)) := rfl

/-! ### What the updates do -/

/-- Zero extension keeps the number (30_encoding.md R73). -/
theorem zextAddr_toNat (nnn : Addr) : (zextAddr nnn).toNat = nnn.toNat :=
  BitVec.toNat_setWidth_of_le (by decide)

theorem State.popPc_sp_toNat : s.popPc.sp.toNat = (s.sp.toNat + 15) % 16 := by
  rw [State.popPc_sp, BitVec.toNat_sub, Nat.add_comm]
  rfl

theorem State.push_sp_toNat (w : Word) : (s.push w).sp.toNat = (s.sp.toNat + 1) % 16 := by
  rw [State.push_sp, BitVec.toNat_add]
  rfl

/-- Everything but `PC` and the call stack is the same: the frame of a call and of a return. -/
def OnlyPcAndStack (s t : State) : Prop :=
  SameRegsBut [] s t ∧ t.i = s.i ∧ SameTimers s t ∧ SameDisplay s t ∧ SameMemory s t ∧ SameRest s t ∧
  t.events = s.events

theorem onlyPcAndStack_popPc : OnlyPcAndStack s s.popPc :=
  ⟨fun _ _ => rfl, rfl, ⟨rfl, rfl, rfl⟩, fun _ _ => rfl, fun _ => rfl, ⟨rfl, fun _ => rfl, rfl, rfl, rfl⟩, rfl⟩

theorem onlyPcAndStack_push_setPc (w target : Word) : OnlyPcAndStack s ((s.push w).setPc target) :=
  ⟨fun _ _ => rfl, rfl, ⟨rfl, rfl, rfl⟩, fun _ _ => rfl, fun _ => rfl, ⟨rfl, fun _ => rfl, rfl, rfl, rfl⟩, rfl⟩

/-- A handler that skips on the Boolean test of `p` moves `PC` by 2 exactly where `p` holds, and does nothing
else (R114). -/
theorem skips_of_exec {s : State} {i : Instr} {c : Bool} {p : Prop} [Decidable p]
    (he : exec i s = .next (s.skipIf c)) (hc : c = true ↔ p) :
    ∃ t, exec i s = .next t ∧ OnlyPc s t ∧ t.pc = if p then s.pc + 2 else s.pc := by
  refine ⟨s.skipIf c, he, onlyPc_skipIf s c, ?_⟩
  rw [State.skipIf_eq, State.setPc_pc]
  simp only [hc]

end Sys2Proof.Machine

namespace Sys2Proof.Proofs

open Sys2Proof.Machine

/-! ### The statements -/

/-- Settles O10: a return is a pop, which moves `PC` and `SP` and writes no slot. -/
theorem returnPopsTheStack : Obligations.ReturnPopsTheStack :=
  ⟨decode_ret, fun s => ⟨s.popPc, exec_ret s, s.popPc_pc, s.popPc_sp_toNat, s.popPc_slot, onlyPcAndStack_popPc s⟩⟩

/-- Settles O11: a jump sets `PC` to the zero-extended operand. -/
theorem jumpReplacesPc : Obligations.JumpReplacesPc := fun nnn =>
  ⟨decode_jp nnn, fun s => ⟨s.setPc (zextAddr nnn), exec_jp s nnn, zextAddr_toNat nnn, onlyPc_setPc s _⟩⟩

/-- Settles O12: a call is a push of the advanced `PC`, then a jump; the push writes the slot at the new `SP` and
no other. -/
theorem callPushesReturnAddress : Obligations.CallPushesReturnAddress := by
  refine fun nnn => ⟨decode_call nnn, fun s => ⟨(s.push s.pc).setPc (zextAddr nnn), exec_call s nnn,
    s.push_sp_toNat s.pc, ?_, fun k hk => ?_, zextAddr_toNat nnn, onlyPcAndStack_push_setPc s _ _⟩⟩
  · rw [State.setPc_slot, State.slot_push, State.setPc_sp, State.push_sp, if_pos rfl]
  · rw [State.setPc_sp, State.push_sp] at hk
    rw [State.setPc_slot, State.slot_push, if_neg hk.symm]

/-- Settles O14: each of the four handlers is a conditional skip, and its Boolean test is the comparison. -/
theorem valueSkipsCompare : Obligations.ValueSkipsCompare := by
  refine ⟨fun x kk => ⟨decode_seImm x kk, decode_sneImm x kk, fun s => ⟨?_, ?_⟩⟩,
    fun x y => ⟨decode_seReg x y, decode_sneReg x y, fun s => ⟨?_, ?_⟩⟩⟩
  · exact skips_of_exec (exec_seImm s x kk) beq_iff_eq
  · exact skips_of_exec (exec_sneImm s x kk) bne_iff_ne
  · exact skips_of_exec (exec_seReg s x y) beq_iff_eq
  · exact skips_of_exec (exec_sneReg s x y) bne_iff_ne

end Sys2Proof.Proofs
end

section
/-! PROOFS. Loads, ALU, random (42_load_alu.md): the addition of an immediate byte, whose handler is one register
write. -/

namespace Sys2Proof.Machine

theorem decode_addImm (x : Nibble) (kk : Byte) : decode (wordXkk 0x7000 x kk) = .addImm x kk := by
  rw [show wordXkk 0x7000 x kk = encodeXkk 0x7 x kk from wordXkk_eq 0x7 x kk]
  simp [decode]

/-- The handler is one register write, of the wrapping sum: no flag is among what it writes (R121). -/
theorem exec_addImm (s : State) (x : Nibble) (kk : Byte) :
    exec (.addImm x kk) s = .next (s.setReg x (s.reg x + kk)) := rfl

end Sys2Proof.Machine

namespace Sys2Proof.Proofs

open Sys2Proof.Machine

/-- Settles O17: the handler writes `Vx` alone, and the sum of two bytes wraps modulo 256. -/
theorem addImmediateWrapsWithoutFlag : Obligations.AddImmediateWrapsWithoutFlag := by
  refine fun x kk => ⟨decode_addImm x kk, fun s =>
    ⟨s.setReg x (s.reg x + kk), exec_addImm s x kk, ?_, onlyRegs_setReg s x _⟩⟩
  rw [State.reg_setReg, if_pos rfl]
  exact BitVec.toNat_add ..

end Sys2Proof.Proofs
end

section
/-! PROOFS. Index and memory (43_index_memory.md): the load of the index register, whose handler is one write of
`I`. -/

namespace Sys2Proof.Machine

theorem decode_ldI (nnn : Addr) : decode (wordNnn 0xA000 nnn) = .ldI nnn := by
  rw [show wordNnn 0xA000 nnn = encodeNnn 0xA nnn from wordNnn_eq 0xA nnn]
  simp [decode]

/-- The handler is one write of the zero-extended operand to `I` (R140). -/
theorem exec_ldI (s : State) (nnn : Addr) : exec (.ldI nnn) s = .next (s.setIndex (zextAddr nnn)) := rfl

end Sys2Proof.Machine

namespace Sys2Proof.Proofs

open Sys2Proof.Machine

/-- Settles O25: the handler sets `I` to the zero-extended operand, and an index write leaves the rest as it was. -/
theorem loadIndexZeroExtends : Obligations.LoadIndexZeroExtends := fun nnn =>
  ⟨decode_ldI nnn, fun s =>
    ⟨s.setIndex (zextAddr nnn), exec_ldI s nnn, zextAddr_toNat nnn, onlyIndex_setIndex s _⟩⟩

end Sys2Proof.Proofs
end

section
/-! PROOFS. What a handler can do, said once over all 35 instructions: the kinds of update, each with which
instructions make it and what bounds it keeps. The whole-machine statements are read off from it. -/

namespace Sys2Proof.Machine

/-! ### Bounds of the values that handlers compute -/

theorem addIndex_toNat (i : Word) (b : Byte) : (i + zextByte b).toNat = (i.toNat + b.toNat) % 65536 := by
  rw [BitVec.toNat_add, zextByte, BitVec.toNat_setWidth_of_le (by decide)]

theorem glyphAddress_toNat (b : Byte) : (glyphAddress b).toNat = 5 * b.toNat := by
  rw [glyphAddress, BitVec.toNat_ofNat]
  omega

/-- The indexed jump's sum is exact: it has no room to wrap (41_control_flow.md R113). -/
theorem indexedTarget_toNat (nnn : Addr) (b : Byte) : (indexedTarget nnn b).toNat = nnn.toNat + b.toNat := by
  rw [indexedTarget, BitVec.toNat_add, zextAddr_toNat, zextByte, BitVec.toNat_setWidth_of_le (by decide)]
  omega

/-- A skip from `PC` at most 4096 stays below the bound of R24. -/
theorem skipTarget_le {pc : Word} (h : pc.toNat ≤ 4096) (c : Bool) :
    (if c then pc + 2 else pc).toNat ≤ 0x10FE := by
  cases c
  · simp only [Bool.false_eq_true, if_false]; omega
  · simp only [if_true, BitVec.toNat_add]
    have : (2 : Word).toNat = 2 := rfl
    omega

/-! ### The kinds of update -/

/-- `Effect s i t`: handler `i` takes `s` to `t` by one of these updates. -/
inductive Effect (s : State) : Instr → State → Prop where
  /-- General registers: those the instruction names, and `V[15]` for a flag. -/
  | regs {i} (v : Vector Byte 16)
      (hv : ∀ r, ({ s with v := v } : State).reg r ≠ s.reg r → writesReg i r = true ∨ (r = 15 ∧ setsFlag i = true)) :
      Effect s i { s with v := v }
  /-- A draw: the flag register, the display and the optional event. -/
  | draw (x y n : Nibble) (v : Vector Byte 16) (d : Vector Row 64) (e : List Event)
      (hv : ∀ r, ({ s with v := v } : State).reg r ≠ s.reg r → r = 15) :
      Effect s (.drw x y n) { s with v := v, disp := d, events := e }
  | clear : Effect s .cls s.clearDisplay
  /-- Memory, in canonical form if it was before. -/
  | store {i} (m : List Host.Cell) (hi : (∃ x, i = .ldB x) ∨ ∃ x, i = .ldMemVx x)
      (hm : s.memWf = true → ({ s with mem := m } : State).memWf = true) : Effect s i { s with mem := m }
  /-- A jump or a skip, from a `PC` that a fetch can leave to one within R24's bound. -/
  | transfer {i} (w : Word) (hi : writesPc i = true) (hw : s.pc.toNat ≤ 4096 → w.toNat ≤ 0x10FE) :
      Effect s i (s.setPc w)
  | call (nnn : Addr) : Effect s (.call nnn) ((s.push s.pc).setPc (zextAddr nnn))
  | ret : Effect s .ret s.popPc
  /-- The index register, from a masked `I` to one within R23's bound. -/
  | index {i} (w : Word) (hi : (∃ nnn, i = .ldI nnn) ∨ (∃ x, i = .addI x) ∨ ∃ x, i = .ldF x)
      (hw : s.i.toNat ≤ 4095 → w.toNat ≤ 4350) : Effect s i (s.setIndex w)
  | delay (x : Nibble) : Effect s (.ldDtVx x) (s.setDelay (s.reg x))
  | sound (x : Nibble) : Effect s (.ldStVx x) (s.setSound (s.reg x))
  | wait (x : Nibble) (hb : s.params.keywaitBlocking = true) : Effect s (.ldVxK x) (s.awaitKey x)
  | noWait (x : Nibble) : Effect s (.ldVxK x) s
  | keyFault {i} (f : Fault) (hi : (∃ x, i = .skp x) ∨ ∃ x, i = .sknp x) : Effect s i (s.raise f)
  | report (w : Word) : Effect s (.unknown w) (s.emit (.unknownOpcode (s.pc - 2) w))

namespace Effect

variable {s : State}

theorem setReg {i : Instr} {x : Nibble} (b : Byte) (hi : writesReg i x = true) : Effect s i (s.setReg x b) := by
  refine .regs _ fun r hr => .inl ?_
  have hxr : x = r := by
    by_contra hne
    exact hr (State.reg_setReg s x r b ▸ if_neg hne)
  exact hxr ▸ hi

theorem setFlagThenReg {i : Instr} {x : Nibble} (f b : Byte) (hi : writesReg i x = true) (hf : setsFlag i = true) :
    Effect s i (s.setFlagThenReg f x b) := by
  refine .regs _ fun r hr => ?_
  have hr' : (s.setFlagThenReg f x b).reg r ≠ s.reg r := hr
  rw [State.reg_setFlagThenReg] at hr'
  by_cases hx : x = r
  · exact .inl (hx ▸ hi)
  · by_cases h15 : vf = r
    · exact .inr ⟨h15.symm, hf⟩
    · rw [if_neg hx, if_neg h15] at hr'
      exact absurd rfl hr'

theorem blockLoad (x : Nibble) : Effect s (.ldVxMem x) ((List.range (x.toNat + 1)).foldl loadBlockByte s) := by
  obtain ⟨v, hv⟩ := loadBlock_frame s (x.toNat + 1)
  rw [hv]
  refine .regs v fun r hr => .inl ?_
  rw [← hv, loadBlock_reg s (by omega)] at hr
  by_contra hx
  rw [if_neg (fun hlt => hx (decide_eq_true (BitVec.le_def.mpr (by omega))))] at hr
  exact hr rfl

theorem blockStore (x : Nibble) : Effect s (.ldMemVx x) ((List.range (x.toNat + 1)).foldl storeBlockByte s) := by
  obtain ⟨m, hm⟩ := storeBlock_frame s (x.toNat + 1)
  rw [hm]
  exact .store m (.inr ⟨x, rfl⟩) fun h => hm ▸ storeBlock_memWf s _ h

theorem digits (x : Nibble) (a b c : Addr) (p q r : Byte) :
    Effect s (.ldB x) (((s.writeByte a p).writeByte b q).writeByte c r) :=
  .store _ (.inl ⟨x, rfl⟩) fun h =>
    State.memWf_writeByte _ _ _ (State.memWf_writeByte _ _ _ (State.memWf_writeByte _ _ _ h))

theorem drawn (x y n : Nibble) :
    Effect s (.drw x y n)
      ((drawSprite (s.reg x) (s.reg y) n.toNat (s.setReg vf 0)).emitOptional .drawInvoked) := by
  obtain ⟨v, d, hf⟩ := drawSprite_frame (s.setReg vf 0) (s.reg x) (s.reg y) n.toNat
  rw [State.emitOptional_eq, hf]
  refine .draw x y n v d _ fun r hr => ?_
  by_contra h15
  refine hr ?_
  calc ({ s with v := v } : State).reg r
      = (drawSprite (s.reg x) (s.reg y) n.toNat (s.setReg vf 0)).reg r := by rw [hf]; rfl
    _ = s.reg r := by
        rw [drawSprite_reg _ _ _ (by omega), if_neg (fun h => h15 h.1), State.reg_setReg,
          if_neg (show ¬ vf = r from Ne.symm h15)]

theorem skip {i : Instr} (c : Bool) (hi : writesPc i = true) : Effect s i (s.skipIf c) := by
  rw [State.skipIf_eq]
  exact .transfer _ hi fun h => skipTarget_le h c

theorem keySkip {i : Instr} (vx : Byte) (wanted : Bool) (hi : (∃ x, i = .skp x) ∨ ∃ x, i = .sknp x) :
    Effect s i (skipOnKey vx wanted s) := by
  unfold skipOnKey
  split
  · exact .keyFault _ hi
  · exact .skip _ (by obtain ⟨x, rfl⟩ | ⟨x, rfl⟩ := hi <;> rfl)

end Effect

/-- Every handler does one of these updates (40_step_cycle.md R96). -/
theorem exec_effect {i : Instr} {s t : State} (h : exec i s = .next t) : Effect s i t := by
  cases i <;> injection h with h <;> subst h
  case cls => exact .clear
  case ret => exact .ret
  case call nnn => exact .call nnn
  case jp nnn => exact .transfer _ rfl fun _ => by rw [zextAddr_toNat]; omega
  case jpV0 nnn => exact .transfer _ rfl fun _ => by rw [indexedTarget_toNat]; omega
  case seImm | sneImm | seReg | sneReg => exact .skip _ rfl
  case skp x => exact .keySkip _ _ (.inl ⟨x, rfl⟩)
  case sknp x => exact .keySkip _ _ (.inr ⟨x, rfl⟩)
  case ldImm | addImm | ldReg | or | and | xor | rnd | ldVxDt => exact .setReg _ (beq_self_eq_true _)
  case addReg | sub | shr | subn | shl => exact .setFlagThenReg _ _ (beq_self_eq_true _) rfl
  case ldI nnn => exact .index _ (.inl ⟨nnn, rfl⟩) fun _ => by rw [zextAddr_toNat]; omega
  case addI x => exact .index _ (.inr (.inl ⟨x, rfl⟩)) fun h => by rw [addIndex_toNat]; omega
  case ldF x => exact .index _ (.inr (.inr ⟨x, rfl⟩)) fun _ => by rw [glyphAddress_toNat]; omega
  case drw x y n => exact .drawn x y n
  case ldB x => exact .digits x _ _ _ _ _ _
  case ldMemVx x => exact .blockStore x
  case ldVxMem x => exact .blockLoad x
  case ldDtVx x => exact .delay x
  case ldStVx x => exact .sound x
  case ldVxK x =>
    split
    · next hb => exact .wait x hb
    · exact .noWait x
  case unknown w => exact .report w

end Sys2Proof.Machine
end

section
/-! PROOFS. Who may write what (10_state.md, R60, R118(d), R152(e)), read off from the kinds of update; and that no
handler but RND reads `rand` and none but the key skips the keypad (R32, R35). -/

namespace Sys2Proof.Machine

variable {i : Instr} {s t : State}

/-! ### Writers -/

theorem Effect.writesReg (e : Effect s i t) {r : Nibble} (hr : t.reg r ≠ s.reg r) :
    writesReg i r = true ∨ (r = 15 ∧ setsFlag i = true) := by
  cases e with
  | regs v hv => exact hv r hr
  | draw x y n v d ev hv => exact .inr ⟨hv r hr, rfl⟩
  | _ => exact absurd rfl hr

theorem Effect.writesIndex (e : Effect s i t) (h : t.i ≠ s.i) :
    (∃ nnn, i = .ldI nnn) ∨ (∃ x, i = .addI x) ∨ (∃ x, i = .ldF x) := by
  cases e with
  | index w hi _ => exact hi
  | _ => exact absurd rfl h

theorem Effect.writesMemory (e : Effect s i t) (h : ¬ SameMemory s t) :
    (∃ x, i = .ldB x) ∨ (∃ x, i = .ldMemVx x) := by
  cases e with
  | store m hi _ => exact hi
  | _ => exact absurd (fun _ => rfl) h

theorem Effect.writesDisplay (e : Effect s i t) (h : ¬ SameDisplay s t) : i = .cls ∨ ∃ x y n, i = .drw x y n := by
  cases e with
  | clear => exact .inl rfl
  | draw x y n => exact .inr ⟨x, y, n, rfl⟩
  | _ => exact absurd (fun _ _ => rfl) h

theorem Effect.writesPc (e : Effect s i t) (h : t.pc ≠ s.pc) : writesPc i = true := by
  cases e with
  | transfer w hi _ => exact hi
  | call nnn => rfl
  | ret => rfl
  | _ => exact absurd rfl h

theorem Effect.writesSp (e : Effect s i t) (h : t.sp ≠ s.sp) : i = .ret ∨ ∃ nnn, i = .call nnn := by
  cases e with
  | ret => exact .inl rfl
  | call nnn => exact .inr ⟨nnn, rfl⟩
  | _ => exact absurd rfl h

theorem Effect.writesSlot (e : Effect s i t) (h : ∃ k, t.slot k ≠ s.slot k) : ∃ nnn, i = .call nnn := by
  obtain ⟨k, hk⟩ := h
  cases e with
  | call nnn => exact ⟨nnn, rfl⟩
  | _ => exact absurd rfl hk

theorem Effect.writesDelay (e : Effect s i t) (h : t.dt ≠ s.dt) : ∃ x, i = .ldDtVx x := by
  cases e with
  | delay x => exact ⟨x, rfl⟩
  | _ => exact absurd rfl h

theorem Effect.writesSound (e : Effect s i t) (h : t.st ≠ s.st) : ∃ x, i = .ldStVx x := by
  cases e with
  | sound x => exact ⟨x, rfl⟩
  | _ => exact absurd rfl h

theorem Effect.writesRun (e : Effect s i t) (h : t.run ≠ s.run) :
    (∃ x, i = .skp x) ∨ (∃ x, i = .sknp x) ∨ ∃ x, i = .ldVxK x := by
  cases e with
  | keyFault f hi => exact hi.imp_right .inl
  | wait x _ => exact .inr (.inr ⟨x, rfl⟩)
  | _ => exact absurd rfl h

/-- What no handler writes: the step counter and what the host gives. -/
theorem Effect.frame (e : Effect s i t) :
    t.sc = s.sc ∧ t.key = s.key ∧ t.params = s.params ∧ t.rand = s.rand ∧ t.draws = s.draws := by
  cases e <;> exact ⟨rfl, rfl, rfl, rfl, rfl⟩

/-! ### Readers -/

/-- The state with other inputs from the host: keypad and `rand`. -/
def State.withInputs (s : State) (keys : Vector Bool 16) (r : Option Byte) (d : Nat) : State :=
  { s with key := keys, rand := r, draws := d }

section
variable (s : State) (keys : Vector Bool 16) (r : Option Byte) (d : Nat)

theorem State.skipIf_withInputs (c : Bool) :
    (s.withInputs keys r d).skipIf c = (s.skipIf c).withInputs keys r d := by
  cases c <;> rfl

theorem drawPixel_withInputs (vx vy b : Byte) (row col : Nat) :
    drawPixel vx vy b row (s.withInputs keys r d) col = (drawPixel vx vy b row s col).withInputs keys r d := by
  have hp : (s.withInputs keys r d).pixel (coord vy row) (coord vx col) = s.pixel (coord vy row) (coord vx col) := rfl
  unfold drawPixel
  simp only [hp]
  cases spriteBit b col <;> cases s.pixel (coord vy row) (coord vx col) <;> rfl

theorem drawRow_withInputs (vx vy : Byte) (row : Nat) :
    drawRow vx vy (s.withInputs keys r d) row = (drawRow vx vy s row).withInputs keys r d :=
  List.foldl_hom (State.withInputs · keys r d) fun s col => drawPixel_withInputs s keys r d vx vy _ row col

theorem drawSprite_withInputs (vx vy : Byte) (n : Nat) :
    drawSprite vx vy n (s.withInputs keys r d) = (drawSprite vx vy n s).withInputs keys r d :=
  List.foldl_hom (State.withInputs · keys r d) fun s row => drawRow_withInputs s keys r d vx vy row

theorem State.emitOptional_withInputs (e : Event) :
    (s.withInputs keys r d).emitOptional e = (s.emitOptional e).withInputs keys r d := by
  rw [State.emitOptional_eq, State.emitOptional_eq]
  rfl

theorem skipOnKey_withInputs (vx : Byte) (wanted : Bool) :
    skipOnKey vx wanted (s.withInputs s.key r d) = (skipOnKey vx wanted s).withInputs s.key r d := by
  rw [skipOnKey_eq, skipOnKey_eq]
  split <;> rfl

/-- The handlers of all instructions but RND and the key skips read no input. -/
theorem exec_withInputs {i : Instr} (hr : ∀ x kk, i ≠ .rnd x kk) (hs : ∀ x, i ≠ .skp x) (hn : ∀ x, i ≠ .sknp x) :
    ∃ t, exec i s = .next t ∧ exec i (s.withInputs keys r d) = .next (t.withInputs keys r d) := by
  cases i with
  | rnd x kk => exact absurd rfl (hr x kk)
  | skp x => exact absurd rfl (hs x)
  | sknp x => exact absurd rfl (hn x)
  | seImm | sneImm | seReg | sneReg => exact ⟨_, rfl, congrArg Host.Outcome.next (s.skipIf_withInputs keys r d _)⟩
  | drw x y n =>
    refine ⟨_, rfl, congrArg Host.Outcome.next ?_⟩
    rw [← State.emitOptional_withInputs, ← drawSprite_withInputs]
    rfl
  | ldVxK x =>
    exact ⟨_, rfl, congrArg Host.Outcome.next
      (apply_ite (State.withInputs · keys r d) (s.params.keywaitBlocking = true) (s.awaitKey x) s).symm⟩
  | ldMemVx x | ldVxMem x =>
    exact ⟨_, rfl, congrArg Host.Outcome.next (List.foldl_hom (State.withInputs · keys r d) fun _ _ => rfl)⟩
  | _ => exact ⟨_, rfl, rfl⟩

/-- The key skips read the keypad, but no `rand`. -/
theorem exec_withRand {i : Instr} (hr : ∀ x kk, i ≠ .rnd x kk) :
    ∃ t, exec i s = .next t ∧ exec i (s.withInputs s.key r d) = .next (t.withInputs s.key r d) := by
  cases i with
  | rnd x kk => exact absurd rfl (hr x kk)
  | skp x | sknp x => exact ⟨_, rfl, congrArg Host.Outcome.next (skipOnKey_withInputs s r d _ _)⟩
  | _ => exact exec_withInputs s s.key r d nofun nofun nofun

/-- RND reads `rand`, but no key. -/
theorem exec_withKeys {i : Instr} (hs : ∀ x, i ≠ .skp x) (hn : ∀ x, i ≠ .sknp x) :
    ∃ t, exec i s = .next t ∧ exec i (s.withInputs keys s.rand s.draws) = .next (t.withInputs keys s.rand s.draws) := by
  cases i with
  | skp x => exact absurd rfl (hs x)
  | sknp x => exact absurd rfl (hn x)
  | rnd x kk => exact ⟨_, rfl, rfl⟩
  | _ => exact exec_withInputs s keys s.rand s.draws nofun nofun nofun

end

end Sys2Proof.Machine

namespace Sys2Proof.Proofs

open Sys2Proof.Machine

/-- Settles O41: only the register update and the draw touch `V`. -/
theorem registerWriters : Obligations.RegisterWriters := fun _ _ _ _ h hr => (exec_effect h).writesReg hr

/-- Settles O42: only the index update touches `I`. -/
theorem indexWriters : Obligations.IndexWriters := fun _ _ _ h hi => (exec_effect h).writesIndex hi

/-- Settles O43: only the store touches memory, only the clear and the draw the display. -/
theorem memoryAndDisplayWriters : Obligations.MemoryAndDisplayWriters := fun _ _ _ h =>
  ⟨(exec_effect h).writesMemory, (exec_effect h).writesDisplay⟩

/-- Settles O44: only the transfer, the call and the return touch `PC` or the stack. -/
theorem controlWriters : Obligations.ControlWriters := fun _ _ _ h =>
  ⟨(exec_effect h).writesPc, (exec_effect h).writesSp, (exec_effect h).writesSlot⟩

/-- Settles O45: a kind of update for each timer and for each change of `RUN`; no kind for the rest. -/
theorem timerRunAndKeyWriters : Obligations.TimerRunAndKeyWriters := by
  intro i s t h
  have e := exec_effect h
  obtain ⟨hsc, hrest⟩ := e.frame
  exact ⟨e.writesDelay, e.writesSound, hsc, e.writesRun, hrest⟩

/-- Settles O23: every handler but RND's commutes with a change of `rand`, and none writes the keypad. -/
theorem onlyRndReadsRand : Obligations.OnlyRndReadsRand := by
  intro i s r d hr
  obtain ⟨t, ht, hu⟩ := exec_withRand s r d hr
  obtain ⟨_, hkey, _⟩ := (exec_effect ht).frame
  have e : t.withInputs s.key r d = { t with rand := r, draws := d } := by rw [← hkey]; rfl
  exact ⟨t, ht, hu.trans (congrArg Host.Outcome.next e)⟩

/-- Settles O46: every handler but the key skips' commutes with a change of the keypad, and none writes `rand`. -/
theorem onlyKeySkipsReadKeys : Obligations.OnlyKeySkipsReadKeys := by
  intro i s keys hs hn
  obtain ⟨t, ht, hu⟩ := exec_withKeys s keys hs hn
  obtain ⟨_, _, _, hrand, hdraws⟩ := (exec_effect ht).frame
  have e : t.withInputs keys s.rand s.draws = { t with key := keys } := by rw [← hrand, ← hdraws]; rfl
  exact ⟨t, ht, hu.trans (congrArg Host.Outcome.next e)⟩

end Sys2Proof.Proofs
end

section
/-! PROOFS. The step (40_step_cycle.md): what each run state does, the two parts around a handler, and what follows
for whole steps and runs of steps. -/

namespace Sys2Proof.Machine

variable {i : Instr} {s t u : State}

/-! ### One step, by the run state -/

theorem step_of_faulted {f : Fault} (h : s.run = .faulted f) : step s = .next s := by
  unfold step; rw [h]

theorem step_of_awaitingKey {k : Nibble} (h : s.run = .awaitingKey k) : step s = .next (s.keyWait k).dropRand := by
  unfold step; rw [h]

theorem step_of_fetch_none (h : s.run = .running) (hw : s.fetchWord = none) :
    step s = .next (s.raise (.fetchOutOfRange s.pc)) := by
  unfold step; rw [h]; dsimp only; rw [hw]

/-- Every step answers a next state (60_exceptions.md R177). -/
theorem step_next (s : State) : ∃ t, step s = .next t := by
  cases hr : s.run with
  | faulted f => exact ⟨_, step_of_faulted hr⟩
  | awaitingKey k => exact ⟨_, step_of_awaitingKey hr⟩
  | running =>
    cases hw : s.fetchWord with
    | none => exact ⟨_, step_of_fetch_none hr hw⟩
    | some w =>
      obtain ⟨u, hu⟩ := exec_next s.prepare (decode w)
      exact ⟨_, State.Executes.step_eq ⟨hr, w, hw, rfl⟩ hu⟩

/-- A run whose first step answers a next state is the run from there. -/
theorem run_succ {M : Host.Core} {n : Nat} {s t : M.State} (h : M.step s = .next t) : M.run (n + 1) s = M.run n t := by
  rw [Host.Core.run, h]

/-! ### The fetch -/

/-- A word is fetched exactly where both its addresses are below 4096 (20_memory.md R56). -/
theorem State.fetchWord_of_lt (h : s.pc.toNat < 4095) : s.fetchWord =
    some (s.readByte (BitVec.ofNat 12 s.pc.toNat) ++ s.readByte (BitVec.ofNat 12 (s.pc.toNat + 1))) :=
  if_pos (Nat.succ_le_of_lt h)

theorem State.fetchWord_of_ge (h : 4095 ≤ s.pc.toNat) : s.fetchWord = none :=
  if_neg (by omega)

theorem State.pc_lt_of_fetchWord {w : Word} (h : s.fetchWord = some w) : s.pc.toNat < 4095 := by
  by_contra hn
  rw [State.fetchWord_of_ge (by omega)] at h
  exact nomatch h

/-! ### The end of a step -/

/-- Where the handler raised, the step is discarded but for `RUN` (R99). -/
theorem State.commit_of_faulted {f : Fault} (h : t.run = .faulted f) : State.commit s t = s.raise f := by
  rw [State.commit_eq, h]

theorem State.safe_of_running (h : s.run = .running) : s.safe = true := by
  unfold State.safe; rw [h]

/-- The tick's optional event (60_exceptions.md R174). -/
theorem State.tick_events (s : State) : s.tick.events = s.events ++
    (if s.sc = 0 ∧ s.dt ≠ 0 ∧ s.params.optionalEvents = true then [.timerTick] else []) := by
  rw [State.tick_eq]
  dsimp only
  simp only [and_assoc]
  rw [apply_ite (s.events ++ ·), List.append_nil]

/-- The tick touches nothing but `DT` and the events. -/
theorem State.tick_frame (s : State) : ∃ d e, s.tick = { s with dt := d, events := e } := ⟨_, _, s.tick_eq⟩

/-- `SC` returns to 0 in a step that found it at 15 (R93). -/
theorem State.prepare_sc_eq_zero (s : State) : s.prepare.sc = 0 ↔ s.sc = 15 := by
  rw [State.prepare_sc]
  constructor <;> intro h <;> bv_omega

theorem State.tick_reg (s : State) (r : Nibble) : s.tick.reg r = s.reg r := by
  rw [State.tick_eq]; rfl

/-! ### Steps that execute an instruction -/

/-- A handler that leaves the machine running ends its step with the tick (R98). -/
theorem State.Executes.step_of_running {i : Instr} (h : s.Executes i) (he : exec i s.prepare = .next t)
    (hr : t.run = .running) : step s = .next t.tick.takeRand := by
  rw [h.step_eq he, State.commit_of_safe s t (State.safe_of_running hr)]

/-- Then `DT` is one less than the handler left it, or 0, in a step that found `SC` at 15 (R93, R98). -/
theorem State.tick_dt_of_sc (hsc : t.sc = s.prepare.sc) :
    t.tick.takeRand.dt.toNat = if s.sc = 15 then t.dt.toNat - 1 else t.dt.toNat := by
  rw [State.takeRand_dt, State.tick_dt, hsc]
  simp only [State.prepare_sc_eq_zero]

/-- A step that executes an instruction and ends without a fault: `SC` counts, and unless the instruction writes `DT`
the tick alone acts on it (R93, R98). -/
theorem State.Executes.timers (h : s.Executes i) (hi : ∀ x, i ≠ .ldDtVx x) (hs : step s = .next u)
    (hsafe : u.safe = true) :
    u.sc = s.sc + 1 ∧ u.dt.toNat = if s.sc = 15 then s.dt.toNat - 1 else s.dt.toNat := by
  obtain ⟨t, ht⟩ := exec_next s.prepare i
  have e := exec_effect ht
  rw [h.step_eq ht] at hs
  injection hs with hs
  obtain ⟨f, _, hc⟩ | ⟨_, hc⟩ := State.commit_cases s t
  · rw [← hs, hc] at hsafe
    exact absurd hsafe nofun
  · obtain ⟨hsc, _⟩ := e.frame
    have hdt : t.dt = s.prepare.dt := by
      by_contra hne
      obtain ⟨x, rfl⟩ := e.writesDelay hne
      exact hi x rfl
    rw [← hs, hc]
    constructor
    · obtain ⟨d, ev, hf⟩ := t.tick_frame
      rw [hf]
      exact hsc
    · rw [State.tick_dt_of_sc hsc, hdt, State.prepare_dt]

/-- What a step does around its handler leaves `ST`, the keypad and the parameters alone. -/
theorem step_cases_outer (h : step s = .next t) : (t.st = s.st ∧ t.key = s.key ∧ t.params = s.params) ∨
    ∃ i u, s.Executes i ∧ exec i s.prepare = .next u ∧ t.st = u.st ∧ t.key = u.key ∧ t.params = u.params := by
  obtain ⟨_, _, rfl⟩ | ⟨k, _, rfl⟩ | ⟨_, _, rfl⟩ | ⟨i, u, hx, hu, rfl⟩ := step_cases h
  · exact .inl ⟨rfl, rfl, rfl⟩
  · obtain ⟨v, r, e, _⟩ := State.keyWait_frame s k
    rw [e]
    exact .inl ⟨rfl, rfl, rfl⟩
  · exact .inl ⟨rfl, rfl, rfl⟩
  · obtain ⟨f, _, e⟩ | ⟨_, e⟩ := State.commit_cases s u
    · rw [e]
      exact .inl ⟨rfl, rfl, rfl⟩
    · obtain ⟨d, ev, hf⟩ := u.tick_frame
      rw [e, hf]
      exact .inr ⟨i, u, hx, hu, rfl, rfl, rfl⟩

/-! ### The unknown word -/

theorem exec_unknown (s : State) (w : Word) : exec (.unknown w) s = .next (s.emit (.unknownOpcode (s.pc - 2) w)) := rfl

/-! ### The key wait -/

/-- A key that is down while no lower one is, is the least (R166). -/
theorem State.lowestKey_eq_some {k : Nibble} (hk : s.keyDown k = true) (hlt : ∀ j, j < k → s.keyDown j = false) :
    s.lowestKey = some k := by
  cases hl : s.lowestKey with
  | none => exact absurd hk (by rw [State.lowestKey_none s hl k]; nofun)
  | some j =>
    obtain ⟨hj, hmin⟩ := State.lowestKey_some s j hl
    rcases Nat.lt_trichotomy j.toNat k.toNat with h | h | h
    · exact absurd hj (by rw [hlt j h]; nofun)
    · rw [BitVec.eq_of_toNat_eq h]
    · exact absurd hk (by rw [hmin k h]; nofun)

theorem State.lowestKey_eq_none (h : ∀ k, s.keyDown k = false) : s.lowestKey = none := by
  unfold State.lowestKey
  rw [List.find?_eq_none]
  intro k _
  rw [h k]
  nofun

theorem State.keyWait_of_some {k t : Nibble} (h : s.lowestKey = some k) :
    s.keyWait t = { s.setReg t (k.setWidth 8) with run := .running } := by
  unfold State.keyWait; rw [h]

theorem State.keyWait_of_none {t : Nibble} (h : s.lowestKey = none) : s.keyWait t = s := by
  unfold State.keyWait; rw [h]

end Sys2Proof.Machine

namespace Sys2Proof.Proofs

open Sys2Proof.Machine

/-- Settles O1: the two bytes are the word fetched. -/
theorem stepRunsDecodedInstruction : Obligations.StepRunsDecodedInstruction := by
  intro s i hr hpc hd
  obtain ⟨t, ht⟩ := exec_next s.prepare i
  have hx : s.Executes i := ⟨hr, _, State.fetchWord_of_lt hpc, hd⟩
  rw [ht]
  exact hx.step_eq ht

/-- Settles O2: two sums and a mask. -/
theorem prepareAdvancesCountsAndMasks : Obligations.PrepareAdvancesCountsAndMasks := fun s =>
  ⟨BitVec.toNat_add .., BitVec.toNat_add .., s.prepare_i_toNat, fun _ _ => rfl, ⟨rfl, fun _ => rfl⟩, rfl, rfl,
    fun _ _ => rfl, fun _ => rfl, ⟨rfl, fun _ => rfl, rfl, rfl, rfl⟩, rfl⟩

/-- Settles O3: a commit is the old state with the fault, or the tick, which touches `DT` and the events alone. -/
theorem commitTicksOrDiscards : Obligations.CommitTicksOrDiscards := by
  refine fun s t => ⟨fun f hf => State.commit_of_faulted hf, fun hsafe => ?_⟩
  rw [State.commit_of_safe s t hsafe]
  have hdt := t.tick_dt
  have hev := t.tick_events
  obtain ⟨d, e, hf⟩ := t.tick_frame
  rw [hf] at hdt hev ⊢
  exact ⟨hdt, rfl, rfl, rfl, rfl, fun _ _ => rfl, ⟨rfl, fun _ => rfl⟩, fun _ _ => rfl, fun _ => rfl, rfl, fun _ => rfl,
    rfl, rfl, rfl, hev⟩

/-- Settles O4: such a `PC` has no word to fetch. -/
theorem fetchPastEndFaults : Obligations.FetchPastEndFaults := fun _ hr hpc =>
  step_of_fetch_none hr (State.fetchWord_of_ge hpc)

/-- Settles O5, by induction on the number of steps. -/
theorem faultedMachineIsFrozen : Obligations.FaultedMachineIsFrozen := by
  intro n s f h
  induction n with
  | zero => rfl
  | succ n ih =>
    have hs : Sys2Proof.core.step s = .next s := step_of_faulted h
    exact (run_succ hs).trans ih

/-- Settles O6: no handler and no run state answers otherwise. -/
theorem everyStepAnswersNext : Obligations.EveryStepAnswersNext := ⟨fun i s => exec_next s i, step_next⟩

/-- Settles O7: the step is the tick after the report, from a prepared state whose `PC` minus 2 is the old `PC`. -/
theorem unknownWordIsSkippedAndReported : Obligations.UnknownWordIsSkippedAndReported := by
  refine ⟨fun w s => exec_unknown s w, fun s w hr hw hd => ?_⟩
  have hx : s.Executes (.unknown w) := ⟨hr, w, hw, hd⟩
  have hpc : s.prepare.pc - 2 = s.pc := BitVec.add_sub_cancel s.pc 2
  have he := exec_unknown s.prepare w
  rw [hpc] at he
  have hstep := hx.step_of_running he hr
  have hdt := State.tick_dt_of_sc (s := s) (t := s.prepare.emit (.unknownOpcode s.pc w)) rfl
  have hev := (s.prepare.emit (.unknownOpcode s.pc w)).tick_events
  obtain ⟨d, e, hf⟩ := (s.prepare.emit (.unknownOpcode s.pc w)).tick_frame
  simp only [State.emit_sc, State.prepare_sc_eq_zero] at hev
  rw [hf] at hstep hdt hev
  exact ⟨_, hstep, rfl, rfl, s.prepare_i_toNat, hdt, rfl, fun _ _ => rfl, ⟨rfl, fun _ => rfl⟩, fun _ _ => rfl,
    fun _ => rfl, hr, fun _ => rfl, rfl, rfl, rfl, hev⟩

/-- Settles O8, by induction on the number of steps: each counts in `SC` and takes one from `DT` as `SC` returns
to 0. -/
theorem delayTimerCadence : Obligations.DelayTimerCadence := by
  intro n s t h
  induction n generalizing s with
  | zero =>
    obtain rfl : t = s := h
    have := t.sc.isLt
    omega
  | succ n ih =>
    obtain ⟨i, u, hx, hi, hs, hsafe, hrest⟩ := h
    obtain ⟨hsc, hdt⟩ := hx.timers hi hs hsafe
    obtain ⟨hsc', hdt'⟩ := ih u hrest
    have hlt := s.sc.isLt
    have hu : u.sc.toNat = (s.sc.toNat + 1) % 16 := by rw [hsc]; exact BitVec.toNat_add ..
    by_cases h15 : s.sc = 15
    · rw [if_pos h15] at hdt
      have : s.sc.toNat = 15 := congrArg BitVec.toNat h15
      omega
    · rw [if_neg h15] at hdt
      have : s.sc.toNat ≠ 15 := fun hc => h15 (BitVec.eq_of_toNat_eq hc)
      omega

/-- Settles O9: the key wait finds the key that is down while no lower one is. -/
theorem keyWaitDeliversLeastKey : Obligations.KeyWaitDeliversLeastKey := by
  refine fun s t hr => ⟨fun k hk hlt => ?_, fun hup => ?_⟩
  · have hs := step_of_awaitingKey hr
    rw [State.keyWait_of_some (State.lowestKey_eq_some hk hlt)] at hs
    have hreg : (s.setReg t (k.setWidth 8)).reg t = k.setWidth 8 := by rw [State.reg_setReg, if_pos rfl]
    obtain ⟨hothers, _⟩ := onlyRegs_setReg s t (k.setWidth 8)
    refine ⟨_, hs, ?_, rfl, hothers, rfl, rfl, ⟨rfl, rfl, rfl⟩, ⟨rfl, fun _ => rfl⟩, fun _ _ => rfl, fun _ => rfl, rfl,
      fun _ => rfl, rfl, rfl, rfl⟩
    exact (congrArg BitVec.toNat hreg).trans (BitVec.toNat_setWidth_of_le (by decide))
  · rw [step_of_awaitingKey hr, State.keyWait_of_none (State.lowestKey_eq_none hup)]
    rfl

/-- Settles O47: of all that a step does, only its handler can write `ST`, and not even that the keypad or the
parameters. -/
theorem soundTimerNeverRunsDown : Obligations.SoundTimerNeverRunsDown := by
  intro s t h
  obtain ⟨hst, hrest⟩ | ⟨i, u, hx, hu, hst, hkey, hparams⟩ := step_cases_outer h
  · exact ⟨fun hne => absurd hst hne, hrest⟩
  · have e := exec_effect hu
    obtain ⟨_, hkey', hparams', _⟩ := e.frame
    refine ⟨fun hne => ?_, hkey.trans hkey', hparams.trans hparams'⟩
    obtain ⟨x, rfl⟩ := e.writesSound (hst ▸ hne)
    exact ⟨x, hx⟩

end Sys2Proof.Proofs
end

section
/-! PROOFS. The invariant (10_state.md R23 to R25, R33): every handler keeps it from a prepared state, every step
from any state, and every move of the host. -/

namespace Sys2Proof.Machine

variable {s t : State}

/-! ### Each handler keeps it -/

/-- What actions 1 to 4 add to the invariant before a handler runs: `PC` at most 4096, `I` masked. -/
theorem State.Inv.prepare (h : s.Inv) (hpc : s.pc.toNat < 4095) :
    s.prepare.Inv ∧ s.prepare.pc.toNat ≤ 4096 ∧ s.prepare.i.toNat ≤ 4095 := by
  have hp : s.prepare.pc.toNat ≤ 4096 := by
    rw [State.prepare_pc, BitVec.toNat_add, show (2 : Word).toNat = 2 from rfl]
    omega
  have hi : s.prepare.i.toNat ≤ 4095 := by
    rw [State.prepare_i_toNat]
    omega
  exact ⟨⟨h.memory, by omega, by omega, h.slots, h.waiting⟩, hp, hi⟩

/-- A call pushes a `PC` of at most 4096, so every slot stays in R25's bound. -/
theorem slots_push (h : ∀ k, (s.slot k).toNat ≤ 4096) {w : Word} (hw : w.toNat ≤ 4096) (k : Nibble) :
    ((s.push w).slot k).toNat ≤ 4096 := by
  rw [State.slot_push]
  split
  · exact hw
  · exact h k

theorem Effect.inv {i : Instr} (e : Effect s i t) (h : s.Inv) (hpc : s.pc.toNat ≤ 4096) (hi : s.i.toNat ≤ 4095) :
    t.Inv := by
  cases e with
  | store m _ hm => exact ⟨hm h.memory, h.index, h.counter, h.slots, h.waiting⟩
  | transfer w _ hw => exact ⟨h.memory, h.index, hw hpc, h.slots, h.waiting⟩
  | call nnn =>
    refine ⟨h.memory, h.index, ?_, slots_push h.slots hpc, h.waiting⟩
    rw [State.setPc_pc, zextAddr_toNat]
    omega
  | ret => exact ⟨h.memory, h.index, (h.slots s.sp).trans (by decide), h.slots, h.waiting⟩
  | index w _ hw => exact ⟨h.memory, hw hi, h.counter, h.slots, h.waiting⟩
  | wait x hb => exact ⟨h.memory, h.index, h.counter, h.slots, fun _ _ => hb⟩
  | keyFault f _ => exact ⟨h.memory, h.index, h.counter, h.slots, nofun⟩
  | _ => exact ⟨h.memory, h.index, h.counter, h.slots, h.waiting⟩

/-! ### The rest of a step keeps it -/

theorem State.Inv.raise (h : s.Inv) (f : Fault) : (s.raise f).Inv :=
  ⟨h.memory, h.index, h.counter, h.slots, nofun⟩

theorem State.Inv.tickTakeRand (h : s.Inv) : s.tick.takeRand.Inv := by
  rw [State.tick_eq]
  exact ⟨h.memory, h.index, h.counter, h.slots, h.waiting⟩

theorem State.Inv.commit (h : s.Inv) (ht : t.Inv) : (State.commit s t).Inv := by
  obtain ⟨f, _, e⟩ | ⟨_, e⟩ := State.commit_cases s t
  · exact e ▸ h.raise f
  · exact e ▸ ht.tickTakeRand

theorem State.Inv.keyWaitDropRand (h : s.Inv) (k : Nibble) : (s.keyWait k).dropRand.Inv := by
  obtain ⟨v, r, e, hr⟩ := State.keyWait_frame s k
  rw [e]
  refine ⟨h.memory, h.index, h.counter, h.slots, fun j (hj : r = .awaitingKey j) => ?_⟩
  obtain rfl | rfl := hr
  · exact h.waiting j hj
  · exact nomatch hj

theorem State.Inv.step (h : s.Inv) (hs : step s = .next t) : t.Inv := by
  obtain ⟨_, _, rfl⟩ | ⟨k, _, rfl⟩ | ⟨_, _, rfl⟩ | ⟨i, u, ⟨_, w, hw, _⟩, he, rfl⟩ := step_cases hs
  · exact h
  · exact h.keyWaitDropRand k
  · exact h.raise _
  · obtain ⟨hp, hpc, hi⟩ := h.prepare (State.pc_lt_of_fetchWord hw)
    exact h.commit ((exec_effect he).inv hp hpc hi)

/-! ### The host's moves keep it -/

theorem State.inv_resetWith (p : Config.Params) : (State.resetWith p).Inv := by
  refine ⟨rfl, by simp [State.resetWith], by simp [State.resetWith], fun k => ?_, nofun⟩
  simp [State.slot, State.resetWith]

theorem State.inv_hostReset (s : State) : s.hostReset.Inv :=
  let h := State.inv_resetWith s.params
  ⟨h.memory, h.index, h.counter, h.slots, h.waiting⟩

theorem State.Inv.hostLoad (h : s.Inv) (image : List Byte) : (s.hostLoad image).Inv := by
  unfold State.hostLoad
  split
  · exact h.raise _
  · have hm := State.memWf_writeBytes s image 0x200 h.memory
    obtain ⟨m, e⟩ := State.writeBytes_frame s image 0x200
    rw [e] at hm ⊢
    exact ⟨hm, h.index, h.counter, h.slots, h.waiting⟩

/-- The step move is the step. -/
theorem State.move_step (hs : Machine.step s = .next t) : s.move .step = t := by
  unfold State.move
  simp only [hs]

theorem State.Inv.move (h : s.Inv) (m : HostMove) : (s.move m).Inv := by
  cases m with
  | launch image => exact s.inv_hostReset.hostLoad image
  | step =>
    obtain ⟨t, ht⟩ := step_next s
    exact State.move_step ht ▸ h.step ht
  | _ => exact ⟨h.memory, h.index, h.counter, h.slots, h.waiting⟩

theorem State.Inv.moves (h : s.Inv) (ms : List HostMove) : (s.moves ms).Inv := by
  induction ms generalizing s with
  | nil => exact h
  | cons m ms ih => exact ih (h.move m)

end Sys2Proof.Machine

namespace Sys2Proof.Proofs

open Sys2Proof.Machine

/-- Settles O48: nothing is listed in memory, every slot is 0, and no key is waited for. -/
theorem resetMeetsInvariant : Obligations.ResetMeetsInvariant :=
  ⟨State.inv_resetWith _, State.inv_resetWith⟩

/-- Settles O49: over the four things a step can do; the executed handler runs from a prepared state, where the
bounds are tighter than the invariant's own. -/
theorem stepKeepsInvariant : Obligations.StepKeepsInvariant := fun _ _ h hs => h.step hs

/-- Settles O50: a launch is a reset and a load, and every move keeps the invariant. -/
theorem reachableStatesMeetInvariant : Obligations.ReachableStatesMeetInvariant := fun p image ms =>
  ((State.inv_resetWith p).hostLoad image).moves ms

end Sys2Proof.Proofs
end

section
/-! PROOFS. The encoding (30_encoding.md): decoding inverts encoding and the other way round, the decoder is the
mask-and-match map of R75, and the unknown space is R77's table. -/

namespace Sys2Proof.Machine

/-! ### Fields as numbers -/

theorem op1_toNat (w : Word) : (op1 w).toNat = w.toNat / 0x1000 := by
  rw [op1, BitVec.extractLsb'_toNat, Nat.shiftRight_eq_div_pow]
  omega

theorem fieldN_toNat (w : Word) : (fieldN w).toNat = w.toNat % 0x10 := by
  rw [fieldN, BitVec.extractLsb'_toNat, Nat.shiftRight_zero]

theorem fieldKk_toNat (w : Word) : (fieldKk w).toNat = w.toNat % 0x100 := by
  rw [fieldKk, BitVec.extractLsb'_toNat, Nat.shiftRight_zero]

/-! ### Encoding a decoded word -/

theorem encodeNnn_of_op1 {w : Word} {op : Nibble} (h : (op1 w).toNat = op.toNat) : encodeNnn op (fieldNnn w) = w := by
  rw [← BitVec.eq_of_toNat_eq h, encodeNnn_fields]

theorem encodeXkk_of_op1 {w : Word} {op : Nibble} (h : (op1 w).toNat = op.toNat) :
    encodeXkk op (fieldX w) (fieldKk w) = w := by
  rw [← BitVec.eq_of_toNat_eq h, encodeXkk_fields]

theorem encodeXyn_of_op1 {w : Word} {op : Nibble} (h : (op1 w).toNat = op.toNat) :
    encodeXyn op (fieldX w) (fieldY w) (fieldN w) = w := by
  rw [← BitVec.eq_of_toNat_eq h, encodeXyn_fields]

theorem encode_decodeExact (w : Word) : encode (decodeExact w) = w := by
  unfold decodeExact
  split_ifs with h1 h2
  · exact h1.symm
  · exact h2.symm
  · rfl

theorem encode_decodeAlu {w : Word} (h : (op1 w).toNat = 8) : encode (decodeAlu w) = w := by
  have key (n : Nibble) (hn : (fieldN w).toNat = n.toNat) : encodeXyn 8 (fieldX w) (fieldY w) n = w := by
    rw [← BitVec.eq_of_toNat_eq hn]
    exact encodeXyn_of_op1 h
  unfold decodeAlu
  split
  case h_10 => rfl
  all_goals next hn => exact key _ hn

theorem encode_decodeKey {w : Word} (h : (op1 w).toNat = 14) : encode (decodeKey w) = w := by
  have key (kk : Byte) (hk : (fieldKk w).toNat = kk.toNat) : encodeXkk 14 (fieldX w) kk = w := by
    rw [← BitVec.eq_of_toNat_eq hk]
    exact encodeXkk_of_op1 h
  unfold decodeKey
  split
  case h_3 => rfl
  all_goals next hk => exact key _ hk

theorem encode_decodeMisc {w : Word} (h : (op1 w).toNat = 15) : encode (decodeMisc w) = w := by
  have key (kk : Byte) (hk : (fieldKk w).toNat = kk.toNat) : encodeXkk 15 (fieldX w) kk = w := by
    rw [← BitVec.eq_of_toNat_eq hk]
    exact encodeXkk_of_op1 h
  unfold decodeMisc
  split
  case h_10 => rfl
  all_goals next hk => exact key _ hk

/-- A word of the 5xy and 9xy families: with `n` = 0 an instruction, else unknown. -/
theorem encode_ite_fieldN {w : Word} {i : Instr} {op : Nibble} (h : (op1 w).toNat = op.toNat)
    (hi : encode i = encodeXyn op (fieldX w) (fieldY w) 0) : encode (if fieldN w = 0 then i else .unknown w) = w := by
  split_ifs with hn
  · rw [hi, ← hn, encodeXyn_of_op1 h]
  · rfl

theorem encode_decode (w : Word) : encode (decode w) = w := by
  have hlt := (op1 w).isLt
  unfold decode
  split <;> rename_i h
  case h_1 => exact encode_decodeExact w
  case h_2 | h_3 | h_11 | h_12 => exact encodeNnn_of_op1 h
  case h_6 => exact encode_ite_fieldN (op := 5) h rfl
  case h_10 => exact encode_ite_fieldN (op := 9) h rfl
  case h_9 => exact encode_decodeAlu h
  case h_14 => exact encodeXyn_of_op1 h
  case h_15 => exact encode_decodeKey h
  case h_16 => exact encode_decodeMisc (by simp only [imp_false] at *; omega)
  all_goals exact encodeXkk_of_op1 h

/-! ### The unknown space -/

theorem unknownWord_eq (w : Word) : unknownWord w =
    (((op1 w).toNat == 0x0 && w != 0x00E0 && w != 0x00EE) ||
    ((op1 w).toNat == 0x5 && (fieldN w).toNat != 0) ||
    ((op1 w).toNat == 0x8 && [0x8, 0x9, 0xA, 0xB, 0xC, 0xD, 0xF].contains (fieldN w).toNat) ||
    ((op1 w).toNat == 0x9 && (fieldN w).toNat != 0) ||
    ((op1 w).toNat == 0xE && !([0x9E, 0xA1].contains (fieldKk w).toNat)) ||
    ((op1 w).toNat == 0xF &&
      !([0x07, 0x0A, 0x15, 0x18, 0x1E, 0x29, 0x33, 0x55, 0x65].contains (fieldKk w).toNat))) := by
  rw [op1_toNat, fieldN_toNat, fieldKk_toNat]
  rfl

theorem decodeExact_unknown (w : Word) : decodeExact w = .unknown w ↔ (w != 0x00E0 && w != 0x00EE) = true := by
  unfold decodeExact
  split_ifs with h1 h2
  · simp [h1]
  · simp [h2]
  · simpa using ⟨h1, h2⟩

theorem decodeAlu_unknown (w : Word) : decodeAlu w = .unknown w ↔
    [0x8, 0x9, 0xA, 0xB, 0xC, 0xD, 0xF].contains (fieldN w).toNat = true := by
  have := (fieldN w).isLt
  unfold decodeAlu
  split
  case h_10 => simp only [imp_false] at *; simp; omega
  all_goals next h => simp [h]

theorem decodeKey_unknown (w : Word) : decodeKey w = .unknown w ↔
    (!([0x9E, 0xA1].contains (fieldKk w).toNat)) = true := by
  unfold decodeKey
  split
  case h_3 => simp only [imp_false] at *; simp [*]
  all_goals next h => simp [h]

theorem decodeMisc_unknown (w : Word) : decodeMisc w = .unknown w ↔
    (!([0x07, 0x0A, 0x15, 0x18, 0x1E, 0x29, 0x33, 0x55, 0x65].contains (fieldKk w).toNat)) = true := by
  unfold decodeMisc
  split
  case h_10 => simp only [imp_false] at *; simp [*]
  all_goals next h => simp [h]

theorem decode_unknown_iff (w : Word) : decode w = .unknown w ↔ unknownWord w = true := by
  have hlt := (op1 w).isLt
  have hn : (fieldN w).toNat = 0 ↔ fieldN w = 0 := BitVec.toNat_inj (y := 0)
  rw [unknownWord_eq]
  unfold decode
  split <;> rename_i h
  case h_1 => simp [h, decodeExact_unknown]
  case h_9 => simp only [h, decodeAlu_unknown]; simp
  case h_15 => simp only [h, decodeKey_unknown]; simp
  case h_16 =>
    have h : (op1 w).toNat = 15 := by simp only [imp_false] at *; omega
    simp only [h, decodeMisc_unknown]; simp
  case h_6 | h_10 => simp [h, hn]
  all_goals simp [h]

/-- UNKNOWN is decoded from its own word only. -/
theorem eq_of_decode_unknown {w w' : Word} (h : decode w = .unknown w') : w' = w := by
  have := encode_decode w
  rwa [h] at this

theorem wellFormed_decode (w : Word) : (decode w).wellFormed = true := by
  cases h : decode w with
  | unknown w' =>
    obtain rfl := eq_of_decode_unknown h
    exact (decode_unknown_iff w').mp h
  | _ => rfl

/-! ### Decoding an encoded instruction -/

theorem decode_encode {i : Instr} (h : i.wellFormed = true) : decode (encode i) = i := by
  cases i with
  | unknown w => exact (decode_unknown_iff w).mpr h
  | cls | ret => rfl
  | jp | call | ldI | jpV0 => simp [encode, decode]
  | seImm | sneImm | ldImm | addImm | rnd => simp [encode, decode]
  | seReg | sneReg | drw => simp [encode, decode]
  | ldReg | or | and | xor | addReg | sub | shr | subn | shl => simp [encode, decode, decodeAlu]
  | skp | sknp => simp [encode, decode, decodeKey]
  | ldVxDt | ldVxK | ldDtVx | ldStVx | addI | ldF | ldB | ldMemVx | ldVxMem => simp [encode, decode, decodeMisc]

/-! ### The opcode map -/

/-- Every instruction's word matches its own row of R75. -/
theorem encodingRow : ∀ i, Laws.EncodingRow.Statement i
  | .cls => Laws.EncodingRow.cls
  | .ret => Laws.EncodingRow.ret
  | .jp nnn => Laws.EncodingRow.jp nnn
  | .call nnn => Laws.EncodingRow.call nnn
  | .seImm x kk => Laws.EncodingRow.seImm x kk
  | .sneImm x kk => Laws.EncodingRow.sneImm x kk
  | .seReg x y => Laws.EncodingRow.seReg x y
  | .ldImm x kk => Laws.EncodingRow.ldImm x kk
  | .addImm x kk => Laws.EncodingRow.addImm x kk
  | .ldReg x y => Laws.EncodingRow.ldReg x y
  | .or x y => Laws.EncodingRow.or x y
  | .and x y => Laws.EncodingRow.and x y
  | .xor x y => Laws.EncodingRow.xor x y
  | .addReg x y => Laws.EncodingRow.addReg x y
  | .sub x y => Laws.EncodingRow.sub x y
  | .shr x y => Laws.EncodingRow.shr x y
  | .subn x y => Laws.EncodingRow.subn x y
  | .shl x y => Laws.EncodingRow.shl x y
  | .sneReg x y => Laws.EncodingRow.sneReg x y
  | .ldI nnn => Laws.EncodingRow.ldI nnn
  | .jpV0 nnn => Laws.EncodingRow.jpV0 nnn
  | .rnd x kk => Laws.EncodingRow.rnd x kk
  | .drw x y n => Laws.EncodingRow.drw x y n
  | .skp x => Laws.EncodingRow.skp x
  | .sknp x => Laws.EncodingRow.sknp x
  | .ldVxDt x => Laws.EncodingRow.ldVxDt x
  | .ldVxK x => Laws.EncodingRow.ldVxK x
  | .ldDtVx x => Laws.EncodingRow.ldDtVx x
  | .ldStVx x => Laws.EncodingRow.ldStVx x
  | .addI x => Laws.EncodingRow.addI x
  | .ldF x => Laws.EncodingRow.ldF x
  | .ldB x => Laws.EncodingRow.ldB x
  | .ldMemVx x => Laws.EncodingRow.ldMemVx x
  | .ldVxMem x => Laws.EncodingRow.ldVxMem x
  | .unknown w => Laws.EncodingRow.unknown w

/-- Two words that agree in the fields their family is decoded by: `op1`; and in family 0 the whole word, in 5, 8 and
9 `n`, in E and F `kk`. -/
def SameSelector (w p : Word) : Prop :=
  op1 w = op1 p ∧ ((op1 p).toNat = 0 → w = p) ∧ ((op1 p).toNat ∈ [5, 8, 9] → fieldN w = fieldN p) ∧
  ((op1 p).toNat ∈ [14, 15] → fieldKk w = fieldKk p)

theorem row_decodeAlu {w p : Word} (h : fieldN w = fieldN p) : (decodeAlu w).row = (decodeAlu p).row := by
  unfold decodeAlu
  rw [h]
  split <;> rfl

theorem row_decodeKey {w p : Word} (h : fieldKk w = fieldKk p) : (decodeKey w).row = (decodeKey p).row := by
  unfold decodeKey
  rw [h]
  split <;> rfl

theorem row_decodeMisc {w p : Word} (h : fieldKk w = fieldKk p) : (decodeMisc w).row = (decodeMisc p).row := by
  unfold decodeMisc
  rw [h]
  split <;> rfl

/-- Such words decode to the same row. -/
theorem SameSelector.row {w p : Word} (h : SameSelector w p) : (decode w).row = (decode p).row := by
  obtain ⟨h1, h0, hn, hk⟩ := h
  have hlt := (op1 p).isLt
  unfold decode
  rw [h1]
  split <;> rename_i e
  case h_1 => rw [h0 e]
  case h_6 | h_10 => rw [hn (by simp [e])]; split <;> rfl
  case h_9 => exact row_decodeAlu (hn (by simp [e]))
  case h_15 => exact row_decodeKey (hk (by simp [e]))
  case h_16 => exact row_decodeMisc (hk (by simp only [imp_false] at *; simp; omega))
  all_goals rfl

/-- The masks of R75 cover those fields. -/
theorem opcodeMap_covers : ∀ r ∈ opcodeMap, op1 r.1 = 0xF ∧ ((op1 r.2).toNat = 0 → r.1 = 0xFFFF) ∧
    ((op1 r.2).toNat ∈ [5, 8, 9] → fieldN r.1 = 0xF) ∧ ((op1 r.2).toNat ∈ [14, 15] → fieldKk r.1 = 0xFF) := by
  simp [opcodeMap, op1, fieldN, fieldKk]

/-- The words of the map's match column decode to their rows. -/
theorem opcodeMap_rows : opcodeMap.map (fun r => (decode r.2).row) = List.range 34 := by decide

theorem eq_of_and_allOnes {n : Nat} {a m p : BitVec n} (h : a &&& m = p) (hm : m = BitVec.allOnes n) : a = p := by
  rwa [hm, BitVec.and_allOnes] at h

/-- So a word that matches a row agrees with the row's match in those fields. -/
theorem sameSelector_of_match {w mask pat : Word} (hr : (mask, pat) ∈ opcodeMap) (h : w &&& mask = pat) :
    SameSelector w pat := by
  obtain ⟨h1, h0, hn, hk⟩ := opcodeMap_covers _ hr
  have field (start len : Nat) :
      w.extractLsb' start len &&& mask.extractLsb' start len = pat.extractLsb' start len := by
    rw [← BitVec.extractLsb'_and, h]
  exact ⟨eq_of_and_allOnes (field 12 4) h1, fun e => eq_of_and_allOnes h (h0 e),
    fun e => eq_of_and_allOnes (field 0 4) (hn e), fun e => eq_of_and_allOnes (field 0 8) (hk e)⟩

theorem row_decode_of_match {w mask pat : Word} {j : Nat} (hj : opcodeMap[j]? = some (mask, pat))
    (h : w &&& mask = pat) : (decode w).row = j := by
  have hrow := congrArg (·[j]?) opcodeMap_rows
  simp only [List.getElem?_map, hj, Option.map_some] at hrow
  obtain ⟨hlt, he⟩ := List.getElem?_eq_some_iff.mp hrow.symm
  rw [List.getElem_range] at he
  rw [(sameSelector_of_match (List.mem_of_getElem? hj) h).row, he]

end Sys2Proof.Machine

namespace Sys2Proof.Proofs

open Sys2Proof.Machine

/-- Settles O51: the fields of an assembled word are those it was assembled from; UNKNOWN's word is in the unknown
space. -/
theorem decodeEncode : Obligations.DecodeEncode := fun _ h => decode_encode h

/-- Settles O52: family by family, a word is assembled from its fields. -/
theorem encodeDecode : Obligations.EncodeDecode := fun w => ⟨wellFormed_decode w, encode_decode w⟩

/-- Settles O53: a match fixes the fields that the decoder selects by, and every word is the encoding of what it
decodes to, which matches its row. -/
theorem decoderFollowsOpcodeMap : Obligations.DecoderFollowsOpcodeMap := by
  refine fun w j mask pat hj => ⟨row_decode_of_match hj, fun h => ?_⟩
  have hm := encodingRow (decode w) mask pat (h ▸ hj)
  rwa [encode_decode] at hm

/-- Settles O54: family by family. -/
theorem unknownSpace : Obligations.UnknownSpace := decode_unknown_iff

/-- Settles O55: six closed words. -/
theorem sourceWordsDecode : Obligations.SourceWordsDecode := by
  refine ⟨?_, ?_, ?_, ?_, ?_, ?_⟩ <;> decide

end Sys2Proof.Proofs
end

section
/-! PROOFS. Control transfer, continued (41_control_flow.md): the indexed jump, and the laws of the call stack
controller (R118). -/

namespace Sys2Proof.Machine

/-- A word that is some instruction's encoding decodes to it. -/
theorem decode_of_eq_encode {w : Word} {i : Instr} (hw : w = encode i) (hi : i.wellFormed = true) : decode w = i :=
  hw ▸ decode_encode hi

theorem decode_jpV0 (nnn : Addr) : decode (wordNnn 0xB000 nnn) = .jpV0 nnn :=
  decode_of_eq_encode (wordNnn_eq 0xB nnn) rfl

variable {s t : State}

/-! ### The stack pointer counts -/

/-- One handler moves `SP` up by one if it is a call, down by one if it is a return (R118(b), (d)). -/
theorem exec_sp {i : Instr} (h : exec i s = .next t) :
    t.sp = s.sp + BitVec.ofNat 4 (isCall i).toNat - BitVec.ofNat 4 (isRet i).toNat := by
  cases i with
  | call nnn => injection h with h; simp [← h, isCall, isRet]
  | ret => injection h with h; simp [← h, isCall, isRet]
  | _ =>
    have hsp : t.sp = s.sp := by
      by_contra hne
      obtain hi | ⟨_, hi⟩ := (exec_effect h).writesSp hne <;> exact nomatch hi
    simp [hsp, isCall, isRet]

theorem execAll_sp (is : List Instr) (s : State) : ∃ t, execAll is s = .next t ∧
    t.sp = s.sp + BitVec.ofNat 4 (is.filter isCall).length - BitVec.ofNat 4 (is.filter isRet).length := by
  induction is generalizing s with
  | nil => exact ⟨s, rfl, by simp⟩
  | cons i is ih =>
    obtain ⟨u, hu⟩ := exec_next s i
    obtain ⟨t, ht, hsp⟩ := ih u
    refine ⟨t, by simpa only [execAll, hu] using ht, ?_⟩
    rw [hsp, exec_sp hu]
    cases hc : isCall i <;> cases hr : isRet i <;>
      simp [hc, hr, BitVec.ofNat_add] <;> ring

/-! ### Nested calls return -/

theorem execAll_cons {i : Instr} {is : List Instr} (h : exec i s = .next t) : execAll (i :: is) s = execAll is t := by
  rw [execAll, h]

/-- As many returns as calls. -/
def nest (targets : List Addr) : List Instr := targets.map .call ++ List.replicate targets.length .ret

theorem nest_cons (a : Addr) (as : List Addr) : nest (a :: as) = .call a :: (nest as ++ [.ret]) := by
  simp [nest, List.replicate_succ']

/-- The state with other slots. -/
def State.withStack (s : State) (st : Vector Word 16) : State := { s with stack := st }

/-- Up to 16 calls and as many returns change nothing but slots: the ones from `SP` + 1 upward hold the return
addresses, which are the old `PC` and the targets of all calls but the last (R118(a)). -/
theorem execAll_nest (targets : List Addr) (s : State) (h : targets.length ≤ 16) :
    ∃ st, execAll (nest targets) s = .next (s.withStack st) ∧
      (∀ k < targets.length,
        (s.pc :: targets.map zextAddr)[k]? = some ((s.withStack st).slot (s.sp + 1 + BitVec.ofNat 4 k))) ∧
      ∀ k : Nibble, targets.length ≤ (k - (s.sp + 1)).toNat → (s.withStack st).slot k = s.slot k := by
  induction targets generalizing s with
  | nil => exact ⟨s.stack, rfl, fun k hk => absurd hk (Nat.not_lt_zero k), fun _ _ => rfl⟩
  | cons a as ih =>
    rw [List.length_cons] at h ⊢
    obtain ⟨st, he, hw, hk⟩ := ih ((s.push s.pc).setPc (zextAddr a)) (by omega)
    simp only [State.setPc_sp, State.push_sp, State.setPc_slot, State.slot_push, State.setPc_pc] at hw hk
    have htop : (s.withStack st).slot (s.sp + 1) = s.pc := (hk (s.sp + 1) (by bv_omega)).trans (if_pos rfl)
    have hpop : (((s.push s.pc).setPc (zextAddr a)).withStack st).popPc = s.withStack st :=
      calc (((s.push s.pc).setPc (zextAddr a)).withStack st).popPc
          = { s.withStack st with pc := (s.withStack st).slot (s.sp + 1), sp := s.sp + 1 - 1 } := rfl
        _ = s.withStack st := by rw [htop, BitVec.add_sub_cancel]; rfl
    refine ⟨st, ?_, fun k hlt => ?_, fun k hle => ?_⟩
    · rw [nest_cons, execAll_cons (exec_call s a), execAll_append _ he, execAll_cons (exec_ret _), execAll, hpop]
    · cases k with
      | zero => exact congrArg some (htop.symm.trans (by simp))
      | succ k =>
        rw [List.getElem?_cons_succ, List.map_cons, hw k (by omega), BitVec.ofNat_add, add_comm (BitVec.ofNat 4 k),
          ← add_assoc]
        rfl
    · refine (hk k ?_).trans (if_neg ?_)
      · bv_omega
      · rintro rfl
        bv_omega

end Sys2Proof.Machine

namespace Sys2Proof.Proofs

open Sys2Proof.Machine

/-- Settles O13: the sum of a 12-bit and an 8-bit number is exact in 16 bits. -/
theorem indexedJumpAddsV0 : Obligations.IndexedJumpAddsV0 := fun nnn =>
  ⟨decode_jpV0 nnn, fun s => ⟨_, rfl, indexedTarget_toNat nnn (s.reg 0), onlyPc_setPc s _⟩⟩

/-- Settles O16, by induction on the instructions. -/
theorem stackPointerCounts : Obligations.StackPointerCounts := execAll_sp

/-- Settles O15: a nest of calls leaves the return addresses in the slots and all else as it was; for 17 calls it is
the nest of the last 16 after the first. -/
theorem nestedCallsReturn : Obligations.NestedCallsReturn := by
  constructor
  · intro targets s h
    obtain ⟨st, he, _⟩ := execAll_nest targets s h
    exact ⟨_, he, rfl, rfl, fun _ _ => rfl, rfl, fun _ => rfl, fun _ _ => rfl, ⟨rfl, rfl, rfl⟩⟩
  · intro first targets s h
    obtain ⟨st, he, hw, _⟩ := execAll_nest targets ((s.push s.pc).setPc (zextAddr first)) h.le
    rw [nest, h] at he
    have hslot (k : Nat) (hk : k < 16) :
        (zextAddr first :: targets.map zextAddr)[k]? = some ((s.withStack st).slot (s.sp + 2 + BitVec.ofNat 4 k)) := by
      rw [show s.sp + 2 = s.sp + 1 + 1 by bv_omega]
      exact hw k (by omega)
    have hnext (k : Nat) (hk : k < 15) : (s.withStack st).slot (s.sp + 3 + BitVec.ofNat 4 k) = zextAddr targets[k] := by
      have hk' := hslot (k + 1) (by omega)
      rw [List.getElem?_cons_succ, List.getElem?_map, List.getElem?_eq_getElem (by omega), Option.map_some] at hk'
      rw [show s.sp + 3 + BitVec.ofNat 4 k = s.sp + 2 + BitVec.ofNat 4 (k + 1) by bv_omega]
      exact (Option.some.inj hk').symm
    have hlast : (s.withStack st).slot (s.sp + 1) = zextAddr targets[14] := by
      rw [← hnext 14 (by omega), BitVec.add_assoc]
      rfl
    refine ⟨_, (execAll_cons (exec_call s first)).trans he, rfl, rfl, ?_, hnext, hlast, _, rfl, hlast, ?_⟩
    · have h0 := hslot 0 (by omega)
      rw [BitVec.add_zero] at h0
      exact (Option.some.inj h0).symm
    · exact BitVec.add_sub_cancel s.sp 1

end Sys2Proof.Proofs
end

section
/-! PROOFS. Loads, ALU, random, continued (42_load_alu.md): each handler is one register write, or a flag and then a
result. -/

namespace Sys2Proof.Machine

variable (s : State)

/-! ### Register writes -/

/-- A handler that writes one register answers its value there and keeps all else. -/
theorem exec_setReg {i : Instr} {x : Nibble} {b : Byte} (h : exec i s = .next (s.setReg x b)) :
    ∃ t, exec i s = .next t ∧ t.reg x = b ∧ OnlyRegs [x] s t :=
  ⟨_, h, (State.reg_setReg s x x b).trans (if_pos rfl), onlyRegs_setReg s x b⟩

/-- A handler that writes a flag and then a result answers the result in its destination, and the flag in `V[15]`
unless that is the destination (R132). -/
theorem exec_setFlagThenReg {i : Instr} {x : Nibble} {f b : Byte} {p q : Nat}
    (h : exec i s = .next (s.setFlagThenReg f x b)) (hb : b.toNat = p) (hf : f.toNat = q) :
    ∃ t, exec i s = .next t ∧ (t.reg x).toNat = p ∧ (x ≠ 15 → (t.reg 15).toNat = q) ∧ OnlyRegs [x, 15] s t := by
  refine ⟨_, h, ?_, fun hx => ?_, onlyRegs_setFlagThenReg s f x b⟩
  · rw [State.reg_setFlagThenReg, if_pos rfl, hb]
  · rw [State.reg_setFlagThenReg, if_neg hx, if_pos (show vf = 15 from rfl), hf]

/-! ### Results and flags as numbers -/

theorem flagOf_toNat (p : Prop) [Decidable p] : (flagOf (decide p)).toNat = if p then 1 else 0 := by
  by_cases h : p <;> simp [flagOf, h]

theorem carryFlag_toNat (a b : Byte) : (carryFlag a b).toNat = if a.toNat + b.toNat > 255 then 1 else 0 :=
  flagOf_toNat _

theorem greaterFlag_toNat (a b : Byte) : (greaterFlag a b).toNat = if a.toNat > b.toNat then 1 else 0 :=
  flagOf_toNat _

theorem lowBitFlag_toNat (a : Byte) : (lowBitFlag a).toNat = a.toNat % 2 := by
  rw [lowBitFlag, flagOf, BitVec.getLsbD, Nat.testBit_zero]
  rcases Nat.mod_two_eq_zero_or_one a.toNat with h | h <;> simp [h]

theorem highBitFlag_toNat (a : Byte) : (highBitFlag a).toNat = a.toNat / 128 := by
  have hlt := a.isLt
  have hb : a.toNat / 128 = 0 ∨ a.toNat / 128 = 1 := by omega
  rw [highBitFlag, flagOf, BitVec.getLsbD, Nat.testBit_eq_decide_div_mod_eq]
  rcases hb with h | h <;> simp [h]

theorem sub_toNat (a b : Byte) : (a - b).toNat = (256 + a.toNat - b.toNat) % 256 := by
  rw [BitVec.toNat_sub]
  omega

theorem ushiftRight_one_toNat (a : Byte) : (a >>> 1).toNat = a.toNat / 2 := by
  rw [BitVec.toNat_ushiftRight, Nat.shiftRight_one]

theorem shiftLeft_one_toNat (a : Byte) : (a <<< 1).toNat = a.toNat * 2 % 256 := by
  rw [BitVec.toNat_shiftLeft, Nat.shiftLeft_eq]

/-- The presented byte is the one RND uses (10_state.md R35). -/
theorem State.randByte_of_some {b : Byte} (h : s.rand = some b) : s.randByte = b := by
  rw [State.randByte, h]; rfl

/-- Masked with `kk`, no bit outside `kk` is left. -/
theorem and_and_not (b kk : Byte) : b &&& kk &&& ~~~kk = 0 := by
  rw [BitVec.and_assoc]; simp

end Sys2Proof.Machine

namespace Sys2Proof.Proofs

open Sys2Proof.Machine

/-- Settles O18: each handler is one register write. -/
theorem loadsAndLogicWriteOneRegister : Obligations.LoadsAndLogicWriteOneRegister :=
  ⟨fun x kk s => ⟨decode_of_eq_encode (wordXkk_eq 6 x kk) rfl, exec_setReg s rfl⟩,
    fun x y s => ⟨decode_of_eq_encode (wordXy_eq 8 x y 0) rfl, decode_of_eq_encode (wordXy_eq 8 x y 1) rfl,
      decode_of_eq_encode (wordXy_eq 8 x y 2) rfl, decode_of_eq_encode (wordXy_eq 8 x y 3) rfl,
      exec_setReg s rfl, exec_setReg s rfl, exec_setReg s rfl, exec_setReg s rfl⟩⟩

/-- Settles O19: the carry is written first, then the sum. -/
theorem addSetsCarry : Obligations.AddSetsCarry := fun x y =>
  ⟨decode_of_eq_encode (wordXy_eq 8 x y 4) rfl, fun s =>
    exec_setFlagThenReg s rfl (BitVec.toNat_add ..) (carryFlag_toNat _ _)⟩

/-- Settles O20: SUBN is SUB with its operands exchanged. -/
theorem subtractFlagsStrictlyGreater : Obligations.SubtractFlagsStrictlyGreater := fun x y =>
  ⟨decode_of_eq_encode (wordXy_eq 8 x y 5) rfl, decode_of_eq_encode (wordXy_eq 8 x y 7) rfl, fun s =>
    ⟨exec_setFlagThenReg s rfl (sub_toNat _ _) (greaterFlag_toNat _ _),
      exec_setFlagThenReg s rfl (sub_toNat _ _) (greaterFlag_toNat _ _)⟩⟩

/-- Settles O21: the bits driven out are a remainder and a quotient. -/
theorem shiftsCatchTheBitDrivenOut : Obligations.ShiftsCatchTheBitDrivenOut := fun x y =>
  ⟨decode_of_eq_encode (wordXy_eq 8 x y 6) rfl, decode_of_eq_encode (wordXy_eq 8 x y 14) rfl, fun s =>
    ⟨exec_setFlagThenReg s rfl (ushiftRight_one_toNat _) (lowBitFlag_toNat _),
      exec_setFlagThenReg s rfl (shiftLeft_one_toNat _) (highBitFlag_toNat _)⟩⟩

/-- Settles O22: the handler writes the input byte, masked. -/
theorem randomByteIsMasked : Obligations.RandomByteIsMasked := by
  refine fun x kk => ⟨decode_of_eq_encode (wordXkk_eq 12 x kk) rfl, fun s => ?_⟩
  obtain ⟨t, ht, hreg, hframe⟩ := exec_setReg s (i := .rnd x kk) rfl
  refine ⟨t, ht, fun b hb => ?_, ?_, hframe⟩
  · rw [hreg, State.randByte_of_some s hb]
  · rw [hreg, and_and_not]

end Sys2Proof.Proofs
end

section
/-! PROOFS. Index and memory, continued (43_index_memory.md, 20_memory.md): the index register, single bytes and
digits, and the block moves. -/

namespace Sys2Proof.Machine

variable (s : State)

/-! ### The index register -/

/-- A handler that writes `I` answers its value there and keeps all else. -/
theorem exec_setIndex {i : Instr} {w : Word} (h : exec i s = .next (s.setIndex w)) :
    ∃ t, exec i s = .next t ∧ t.i = w ∧ OnlyIndex s t := ⟨_, h, rfl, onlyIndex_setIndex s w⟩

/-! ### Stores: all that a store can do is in the bytes it writes -/

/-- Memory alone is written, and no byte but those listed reads differently. -/
theorem onlyBytes_of_mem {m : List Host.Cell} {as : List Addr}
    (h : ∀ a, a ∉ as → ({ s with mem := m } : State).readByte a = s.readByte a) : OnlyBytes as s { s with mem := m } :=
  ⟨fun _ _ => rfl, rfl, rfl, ⟨rfl, fun _ => rfl⟩, ⟨rfl, rfl, rfl⟩, fun _ _ => rfl, h,
    ⟨rfl, fun _ => rfl, rfl, rfl, rfl⟩, rfl⟩

theorem onlyBytes_writeByte (a : Addr) (b : Byte) : OnlyBytes [a] s (s.writeByte a b) := by
  refine onlyBytes_of_mem s fun k hk => (State.readByte_writeByte s a k b).trans (if_neg ?_)
  rintro rfl
  exact hk (List.mem_singleton.mpr rfl)

theorem hundreds_toNat (b : Byte) : (hundreds b).toNat = b.toNat / 100 := by
  rw [hundreds, BitVec.toNat_ofNat]
  omega

theorem tens_toNat (b : Byte) : (tens b).toNat = b.toNat / 10 % 10 := by
  rw [tens, BitVec.toNat_ofNat]
  omega

theorem units_toNat (b : Byte) : (units b).toNat = b.toNat % 10 := by
  rw [units, BitVec.toNat_ofNat]
  omega

/-- Three bytes at one base: each reads as written, because their addresses differ (R54). -/
theorem readByte_threeBytes (w : Word) (p q r : Byte) :
    let t := ((s.writeByte (ea w 0) p).writeByte (ea w 1) q).writeByte (ea w 2) r
    t.readByte (ea w 0) = p ∧ t.readByte (ea w 1) = q ∧ t.readByte (ea w 2) = r ∧
      ∀ a, a ∉ [ea w 0, ea w 1, ea w 2] → t.readByte a = s.readByte a := by
  have h10 : ea w 1 ≠ ea w 0 := mt (ea_inj (by decide) (by decide)).mp (by decide)
  have h20 : ea w 2 ≠ ea w 0 := mt (ea_inj (by decide) (by decide)).mp (by decide)
  have h21 : ea w 2 ≠ ea w 1 := mt (ea_inj (by decide) (by decide)).mp (by decide)
  refine ⟨by simp [h10, h20], by simp [h21], by simp, fun a ha => ?_⟩
  simp only [List.mem_cons, List.not_mem_nil, or_false, not_or] at ha
  obtain ⟨h0, h1, h2⟩ := ha
  simp [Ne.symm h0, Ne.symm h1, Ne.symm h2]

/-! ### Block moves -/

theorem exec_ldMemVx (x : Nibble) :
    exec (.ldMemVx x) s = .next ((List.range (x.toNat + 1)).foldl storeBlockByte s) := rfl

theorem exec_ldVxMem (x : Nibble) :
    exec (.ldVxMem x) s = .next ((List.range (x.toNat + 1)).foldl loadBlockByte s) := rfl

/-- A block store puts every register up to `Vx` at its own offset (R144). -/
theorem readByte_blockStore {x k : Nibble} (hk : k ≤ x) :
    ((List.range (x.toNat + 1)).foldl storeBlockByte s).readByte (ea s.i k.toNat) = s.reg k := by
  have hle := BitVec.le_def.mp hk
  rw [storeBlock_readByte_at s (by omega) (by omega), blockReg_toNat]

/-- A block load takes every register up to `Vx` from its own offset (R145). -/
theorem reg_blockLoad {x k : Nibble} (hk : k ≤ x) :
    ((List.range (x.toNat + 1)).foldl loadBlockByte s).reg k = s.readByte (ea s.i k.toNat) := by
  have hle := BitVec.le_def.mp hk
  rw [loadBlock_reg s (by omega), if_pos (by omega)]

theorem onlyBytes_blockStore (n : Nat) :
    OnlyBytes ((List.range n).map (ea s.i)) s ((List.range n).foldl storeBlockByte s) := by
  have hoff := storeBlock_readByte_off s n
  obtain ⟨m, hf⟩ := storeBlock_frame s n
  rw [hf] at hoff ⊢
  exact onlyBytes_of_mem s hoff

theorem onlyRegs_blockLoad {n : Nat} (hn : n ≤ 16) :
    OnlyRegs ((List.range n).map (BitVec.ofNat 4)) s ((List.range n).foldl loadBlockByte s) := by
  have hreg := loadBlock_reg s hn
  obtain ⟨v, hf⟩ := loadBlock_frame s n
  rw [hf] at hreg ⊢
  refine ⟨fun r hr => ?_, rfl, rfl, ⟨rfl, fun _ => rfl⟩, ⟨rfl, rfl, rfl⟩, fun _ _ => rfl, fun _ => rfl,
    ⟨rfl, fun _ => rfl, rfl, rfl, rfl⟩, rfl⟩
  rw [hreg, if_neg]
  exact fun hlt => hr (List.mem_map.mpr ⟨r.toNat, List.mem_range.mpr hlt, BitVec.ofNat_toNat ..⟩)

end Sys2Proof.Machine

namespace Sys2Proof.Proofs

open Sys2Proof.Machine

/-- Settles O24: a byte read after a write is the byte written there, the old byte elsewhere. -/
theorem memoryWriteSetsOneByte : Obligations.MemoryWriteSetsOneByte := fun s a v =>
  ⟨(State.readByte_writeByte s a a v).trans (if_pos rfl), onlyBytes_writeByte s a v⟩

/-- Settles O26: the sum modulo 65536, which has no room to wrap from a masked `I`. -/
theorem addIndexKeepsTheCarry : Obligations.AddIndexKeepsTheCarry := by
  refine fun x => ⟨decode_of_eq_encode (wordX_eq 15 x 0x1E) rfl, fun s => ?_⟩
  obtain ⟨t, ht, hi, hframe⟩ := exec_setIndex s (i := .addI x) rfl
  have hsum := addIndex_toNat s.i (s.reg x)
  rw [← hi] at hsum
  exact ⟨t, ht, hsum, fun hle => by omega, hframe⟩

/-- Settles O27: five times a byte fits in 16 bits. -/
theorem glyphAddressIsFiveTimes : Obligations.GlyphAddressIsFiveTimes := by
  refine fun x => ⟨decode_of_eq_encode (wordX_eq 15 x 0x29) rfl, fun s => ?_⟩
  obtain ⟨t, ht, hi, hframe⟩ := exec_setIndex s (i := .ldF x) rfl
  exact ⟨t, ht, hi ▸ glyphAddress_toNat (s.reg x), hframe⟩

/-- Settles O28: the three digits stand at three different addresses. -/
theorem storeDecimalDigits : Obligations.StoreDecimalDigits := by
  refine fun x => ⟨decode_of_eq_encode (wordX_eq 15 x 0x33) rfl, fun s => ?_⟩
  obtain ⟨h0, h1, h2, hoff⟩ := readByte_threeBytes s s.i (hundreds (s.reg x)) (tens (s.reg x)) (units (s.reg x))
  exact ⟨_, rfl, (congrArg BitVec.toNat h0).trans (hundreds_toNat _), (congrArg BitVec.toNat h1).trans (tens_toNat _),
    (congrArg BitVec.toNat h2).trans (units_toNat _), onlyBytes_of_mem s hoff⟩

/-- Settles O29: what a block store writes, and where. -/
theorem storeRegisterBlock : Obligations.StoreRegisterBlock := fun x =>
  ⟨decode_of_eq_encode (wordX_eq 15 x 0x55) rfl, fun s =>
    ⟨_, exec_ldMemVx s x, fun _ hk => readByte_blockStore s hk, onlyBytes_blockStore s _⟩⟩

/-- Settles O30: what a block load reads, and from where. -/
theorem loadRegisterBlock : Obligations.LoadRegisterBlock := fun x =>
  ⟨decode_of_eq_encode (wordX_eq 15 x 0x65) rfl, fun s =>
    ⟨_, exec_ldVxMem s x, fun _ hk => reg_blockLoad s hk, onlyRegs_blockLoad s (by omega)⟩⟩

/-- Settles O31: the load reads, at the same addresses, what the store wrote. -/
theorem blockLoadRestoresBlockStore : Obligations.BlockLoadRestoresBlockStore := by
  intro x s t u w hst hi hmem hld k hk
  rw [exec_ldMemVx] at hst
  rw [exec_ldVxMem] at hld
  injection hst with hst
  injection hld with hld
  rw [← hld, reg_blockLoad u hk, hmem, hi, ← hst, readByte_blockStore s hk]

/-- Settles O32: the two addresses of the fetch are the first two of the store. -/
theorem storedWordIsFetched : Obligations.StoredWordIsFetched := by
  intro x s t hx hst hpc hlt
  rw [exec_ldMemVx] at hst
  injection hst with hst
  have h0 : t.readByte (ea s.i 0) = s.reg 0 :=
    hst ▸ readByte_blockStore s (k := 0) (BitVec.le_def.mpr (Nat.zero_le _))
  have h1 : t.readByte (ea s.i 1) = s.reg 1 := hst ▸ readByte_blockStore s (k := 1) (BitVec.le_def.mpr hx)
  rw [State.fetchWord_of_lt (hpc ▸ hlt), hpc, ← h0, ← h1]
  rfl

end Sys2Proof.Proofs
end

section
/-! PROOFS. The display (44_display.md): clearing it, one draw, and the same draw twice. -/

namespace Sys2Proof.Machine

variable {s t : State}

theorem decode_drw (x y n : Nibble) : decode (wordXyn 0xD000 x y n) = .drw x y n :=
  decode_of_eq_encode (wordXyn_eq 13 x y n) rfl

/-- Some lit pixel is under a set bit of the sprite (R151). -/
def Collides (s : State) (vx vy : Byte) (n : Nat) : Prop :=
  ∃ r c, s.pixel r c = true ∧ spriteOver s vx vy n r c = true

/-- All a draw does: the pixels in R152(a)'s closed form, the flag, and the optional event. -/
theorem exec_drw_spec {x y n : Nibble} (h : exec (.drw x y n) s = .next t) :
    (∀ r c, t.pixel r c = (s.pixel r c ^^ spriteOver s (s.reg x) (s.reg y) n.toNat r c)) ∧
    (Collides s (s.reg x) (s.reg y) n.toNat → t.reg 15 = 1) ∧
    (¬ Collides s (s.reg x) (s.reg y) n.toNat → t.reg 15 = 0) ∧ (∀ r, r ≠ 15 → t.reg r = s.reg r) ∧
    ∃ v d, t = { s with
      v := v, disp := d, events := s.events ++ if s.params.optionalEvents = true then [.drawInvoked] else [] } := by
  have hpix := drawSprite_pixel (s.setReg vf 0) (s.reg x) (s.reg y) (show n.toNat ≤ 16 by omega)
  have hreg := drawSprite_reg (s.setReg vf 0) (s.reg x) (s.reg y) (show n.toNat ≤ 16 by omega)
  obtain ⟨v, d, hf⟩ := drawSprite_frame (s.setReg vf 0) (s.reg x) (s.reg y) n.toNat
  injection h with h
  rw [State.emitOptional_eq, hf] at h
  rw [hf] at hpix hreg
  subst h
  refine ⟨hpix, fun hc => ?_, fun hc => ?_, fun r hr => ?_, v, d, ?_⟩
  · exact (hreg 15).trans (if_pos ⟨rfl, hc⟩)
  · exact (hreg 15).trans ((if_neg (fun hc' => hc hc'.2)).trans (State.reg_setReg ..))
  · exact (hreg r).trans ((if_neg (fun hc => hr hc.1)).trans
      ((State.reg_setReg ..).trans (if_neg (show ¬ vf = r from Ne.symm hr))))
  · rw [apply_ite (s.events ++ ·), List.append_nil]
    rfl

/-- The sprite depends on `I` and memory alone. -/
theorem spriteOver_congr {u : State} (hi : u.i = s.i) (hm : SameMemory s u) (vx vy : Byte) (n : Nat) (r c : Coord) :
    spriteOver u vx vy n r c = spriteOver s vx vy n r c := by
  simp only [spriteOver, hi, hm _]

end Sys2Proof.Machine

namespace Sys2Proof.Proofs

open Sys2Proof.Machine

/-- Settles O33: the handler replaces the display by a dark one. -/
theorem clearTurnsEveryPixelOff : Obligations.ClearTurnsEveryPixelOff :=
  ⟨by decide, fun s => ⟨s.clearDisplay, rfl, State.pixel_clearDisplay s, fun _ _ => rfl, rfl, rfl,
    ⟨rfl, fun _ => rfl⟩, ⟨rfl, rfl, rfl⟩, fun _ => rfl, ⟨rfl, fun _ => rfl, rfl, rfl, rfl⟩, rfl⟩⟩

/-- Settles O34: all that a draw does. -/
theorem drawXorsTheSprite : Obligations.DrawXorsTheSprite := by
  refine fun x y n => ⟨decode_drw x y n, fun s => ?_⟩
  obtain ⟨t, ht⟩ := exec_next s (.drw x y n)
  obtain ⟨hpix, hhit, hmiss, hregs, v, d, hf⟩ := exec_drw_spec ht
  refine ⟨t, ht, hpix, hhit, hmiss, fun r hr => hregs r (by simpa using hr), ?_⟩
  subst hf
  exact ⟨rfl, rfl, ⟨rfl, fun _ => rfl⟩, ⟨rfl, rfl, rfl⟩, fun _ => rfl, ⟨rfl, fun _ => rfl, rfl, rfl, rfl⟩, rfl⟩

/-- Settles O35: exclusive-or with the same sprite twice cancels; and where the sprite is set, a pixel is lit after
the first draw exactly if it was dark before. -/
theorem drawTwiceRestores : Obligations.DrawTwiceRestores := by
  intro x y n s t u w hst hx hy hi hm hd huw
  obtain ⟨hpix, _⟩ := exec_drw_spec hst
  obtain ⟨hpix', hhit, hmiss, _⟩ := exec_drw_spec huw
  rw [hx, hy] at hpix' hhit hmiss
  simp only [hd _ _, hpix, spriteOver_congr hi hm] at hpix'
  have hcol : Collides u (s.reg x) (s.reg y) n.toNat ↔ ∃ r c, s.pixel r c = false ∧ t.pixel r c = true := by
    simp only [Collides, hd _ _, hpix, spriteOver_congr hi hm]
    refine exists_congr fun r => exists_congr fun c => ?_
    cases s.pixel r c <;> simp
  refine ⟨fun r c => ?_, ⟨fun h1 => ?_, fun h => hhit (hcol.mpr h)⟩, ?_⟩
  · rw [hpix' r c, Bool.xor_assoc, Bool.xor_self, Bool.xor_false]
  · by_contra hn
    rw [hmiss (mt hcol.mp hn)] at h1
    exact absurd h1 (by decide)
  · by_cases hc : Collides u (s.reg x) (s.reg y) n.toNat
    · exact .inr (hhit hc)
    · exact .inl (hmiss hc)

end Sys2Proof.Proofs
end

section
/-! PROOFS. Keypad and timers (45_keypad_timers.md): the handlers, and the steps that end in the key index fault or in
a tick. -/

namespace Sys2Proof.Machine

variable {s t : State}

/-! ### The key skips -/

/-- A key skip on a key's own number moves `PC` by 2 exactly where the key's flag is as wanted, and does nothing
else. -/
theorem skipOnKey_of_key {i : Instr} {vx : Byte} {k : Nibble} {wanted : Bool} (hk : vx.toNat = k.toNat)
    (he : exec i s = .next (skipOnKey vx wanted s)) :
    ∃ t, exec i s = .next t ∧ OnlyPc s t ∧ t.pc = if s.keyDown k = wanted then s.pc + 2 else s.pc := by
  have hvx : vx.setWidth 4 = k := by
    refine BitVec.eq_of_toNat_eq ?_
    rw [BitVec.toNat_setWidth, hk]
    omega
  have hskip : skipOnKey vx wanted s = s.skipIf (s.keyDown k == wanted) := by
    rw [skipOnKey, if_neg (by omega), hvx]
  exact skips_of_exec (hskip ▸ he) beq_iff_eq

/-- A step whose key skip has an index above 15 is discarded but for `RUN` (R167, R99). -/
theorem State.Executes.step_of_keyFault {i : Instr} {vx : Byte} {wanted : Bool} (h : s.Executes i)
    (he : exec i s.prepare = .next (skipOnKey vx wanted s.prepare)) (hvx : 15 < vx.toNat) :
    step s = .next (s.raise (.keyIndexOutOfRange vx)) := by
  rw [h.step_eq he, skipOnKey_eq, if_pos hvx, State.commit_of_faulted (State.raise_run ..)]

/-! ### The timer moves -/

theorem onlyTimers_setDelay (s : State) (b : Byte) : OnlyTimers s (s.setDelay b) :=
  ⟨fun _ _ => rfl, rfl, rfl, ⟨rfl, fun _ => rfl⟩, rfl, fun _ _ => rfl, fun _ => rfl, ⟨rfl, fun _ => rfl, rfl, rfl, rfl⟩,
    rfl⟩

theorem onlyTimers_setSound (s : State) (b : Byte) : OnlyTimers s (s.setSound b) :=
  ⟨fun _ _ => rfl, rfl, rfl, ⟨rfl, fun _ => rfl⟩, rfl, fun _ _ => rfl, fun _ => rfl, ⟨rfl, fun _ => rfl, rfl, rfl, rfl⟩,
    rfl⟩

end Sys2Proof.Machine

namespace Sys2Proof.Proofs

open Sys2Proof.Machine

/-- Settles O36: the key wanted is down for SKP, and as `SKNP_NEGATED` says for SKNP. -/
theorem keySkipsTestTheKey : Obligations.KeySkipsTestTheKey := fun x =>
  ⟨decode_of_eq_encode (wordX_eq 14 x 0x9E) rfl, decode_of_eq_encode (wordX_eq 14 x 0xA1) rfl, fun _ _ hk =>
    ⟨skipOnKey_of_key hk rfl, skipOnKey_of_key hk rfl⟩⟩

/-- Settles O37: both are key skips, which raise before they change anything. -/
theorem keyIndexFaultDiscardsTheStep : Obligations.KeyIndexFaultDiscardsTheStep := by
  rintro s x (h | h) hx
  · exact h.step_of_keyFault rfl hx
  · exact h.step_of_keyFault rfl hx

/-- Settles O38: each handler writes one register or one timer. -/
theorem timerMovesWriteOneRegister : Obligations.TimerMovesWriteOneRegister := fun x =>
  ⟨decode_of_eq_encode (wordX_eq 15 x 0x07) rfl, decode_of_eq_encode (wordX_eq 15 x 0x15) rfl,
    decode_of_eq_encode (wordX_eq 15 x 0x18) rfl, fun s =>
    ⟨exec_setReg s rfl, ⟨s.setDelay (s.reg x), rfl, rfl, rfl, onlyTimers_setDelay s _⟩,
      ⟨s.setSound (s.reg x), rfl, rfl, rfl, onlyTimers_setSound s _⟩⟩⟩

/-- Settles O39: the tick acts on what the handler left in `DT`; the register read was written before it. -/
theorem delayTimerOnATickStep : Obligations.DelayTimerOnATickStep := by
  constructor
  · intro s x h
    exact ⟨_, h.step_of_running rfl h.1, State.tick_dt_of_sc rfl⟩
  · intro s x h
    refine ⟨_, h.step_of_running rfl h.1, ?_, State.tick_dt_of_sc rfl⟩
    rw [State.takeRand_reg, State.tick_reg, State.reg_setReg, if_pos rfl]
    rfl

/-- Settles O40: the two values of the parameter. -/
theorem keyWaitIsNoOpOrSuspends : Obligations.KeyWaitIsNoOpOrSuspends := fun x =>
  ⟨decode_of_eq_encode (wordX_eq 15 x 0x0A) rfl, fun s =>
    ⟨fun h => congrArg Host.Outcome.next (if_neg (by rw [h]; nofun)), fun h => congrArg Host.Outcome.next (if_pos h)⟩⟩

end Sys2Proof.Proofs
end

section
/-! PROOFS. Reset, load, and the placing of a word (70_reset_and_hazards.md R190 to R192; 30_encoding.md R81). -/

namespace Sys2Proof.Machine

variable (s : State)

/-! ### Reset -/

/-- After reset an address reads as its reset contents (20_memory.md R53, R39). -/
theorem State.hostReset_readByte {a : Nat} (ha : a < 4096) :
    s.hostReset.readByte (BitVec.ofNat 12 a) = Mem.unlisted s.params.glyph a := by
  show Mem.unlisted s.params.glyph (BitVec.ofNat 12 a).toNat = _
  rw [BitVec.toNat_ofNat, Nat.mod_eq_of_lt ha]

/-! ### Load -/

theorem State.hostLoad_of_le {image : List Byte} (h : image.length ≤ 3584) :
    s.hostLoad image = s.writeBytes 0x200 image := if_neg (Nat.not_lt.mpr h)

theorem State.hostLoad_of_gt {image : List Byte} (h : 3584 < image.length) :
    s.hostLoad image = s.raise (.loadOverflow image.length) := if_pos h

/-! ### The placing of a word -/

/-- A word is its two bytes, high byte first (R81, R56). -/
theorem wordOfBytes_halves (w : Word) : wordOfBytes (w.extractLsb' 8 8) (w.extractLsb' 0 8) = w := by
  ext i hi
  simp only [wordOfBytes]; grind

/-- A word is placed where a fetch can take it. -/
theorem State.placeWord_pc_lt (w : Word) : (s.placeWord w).pc.toNat < 4095 := by
  show (if s.pc.toNat + 1 ≤ 4095 then s.pc else 0x200 : Word).toNat < 4095
  split
  · omega
  · decide

/-- The word placed lies at `PC`, high byte first; all other bytes are as before. -/
theorem State.placeWord_readByte (w : Word) (a : Addr) : (s.placeWord w).readByte a =
    if BitVec.ofNat 12 ((s.placeWord w).pc.toNat + 1) = a then w.extractLsb' 0 8
    else if BitVec.ofNat 12 (s.placeWord w).pc.toNat = a then w.extractLsb' 8 8 else s.readByte a :=
  (State.readByte_writeByte _ _ a _).trans (by rw [State.readByte_writeByte]; rfl)

theorem State.placeWord_fetchWord (w : Word) : (s.placeWord w).fetchWord = some w := by
  have hlt := s.placeWord_pc_lt w
  have hne : ¬ BitVec.ofNat 12 ((s.placeWord w).pc.toNat + 1) = BitVec.ofNat 12 (s.placeWord w).pc.toNat := by
    intro h
    have := congrArg BitVec.toNat h
    simp only [BitVec.toNat_ofNat] at this
    omega
  rw [State.fetchWord_of_lt hlt, State.placeWord_readByte, if_neg hne, if_pos rfl, State.placeWord_readByte, if_pos rfl]
  exact congrArg some (wordOfBytes_halves w)

/-- Any other byte reads as before. -/
theorem State.placeWord_readByte_off (w : Word) {a : Addr} (h0 : a.toNat ≠ (s.placeWord w).pc.toNat)
    (h1 : a.toNat ≠ (s.placeWord w).pc.toNat + 1) : (s.placeWord w).readByte a = s.readByte a := by
  have hlt := s.placeWord_pc_lt w
  have hne {n : Nat} (hn : n < 4096) (h : a.toNat ≠ n) : ¬ BitVec.ofNat 12 n = a := by
    rintro rfl
    exact h (by rw [BitVec.toNat_ofNat, Nat.mod_eq_of_lt hn])
  rw [State.placeWord_readByte, if_neg (hne (by omega) h1), if_neg (hne (by omega) h0)]

/-- The table's decoder reads the word that the step's decoder is given. -/
theorem decodeTableWord_of_le {nbits : Nat} (h : nbits ≤ 16) (w : Nat) :
    decodeTableWord nbits w = some (decode (BitVec.ofNat 16 (w % 2 ^ nbits))) := by
  rw [decodeTableWord, if_pos h]
  exact congrArg (some ∘ decode) (wordOfBytes_halves _)

end Sys2Proof.Machine

namespace Sys2Proof.Proofs

open Sys2Proof.Machine

/-- Settles O56: each field of the reset state; memory lists nothing, so it reads as its reset contents. -/
theorem resetValues : Obligations.ResetValues := by
  refine fun s => ⟨fun r => ?_, rfl, rfl, fun k => ?_, rfl, rfl, rfl, rfl, State.pixel_clearDisplay s, fun a ha => ?_,
    fun a ha hlt => ?_, fun k => ?_, rfl, rfl, rfl, rfl, rfl⟩
  · exact Vector.getElem_replicate ..
  · exact Vector.getElem_replicate ..
  · rw [State.hostReset_readByte s (by omega), Mem.unlisted, dif_pos ha]
  · rw [State.hostReset_readByte s hlt, Mem.unlisted, dif_neg (by omega)]
  · exact Vector.getElem_replicate ..

/-- Settles O57: the load is a write of the image's bytes, which fit below the top of memory. -/
theorem loadWritesTheImage : Obligations.LoadWritesTheImage := by
  intro p image h
  have hl : State.launch p image = (State.resetWith p).writeBytes 0x200 image := State.hostLoad_of_le _ h
  rw [hl]
  refine ⟨fun k hk => State.writeBytes_readByte_at _ _ _ _ (by omega) hk,
    fun a ha => State.writeBytes_readByte_off _ _ _ _ (by omega) ha, ?_⟩
  obtain ⟨m, hm⟩ := State.writeBytes_frame (State.resetWith p) image 0x200
  rw [hm]
  rfl

/-- Settles O58: the load raises before it writes, and a faulted machine does not step. -/
theorem loadOverflowWritesNothing : Obligations.LoadOverflowWritesNothing := by
  intro p image h
  have hl : State.launch p image = (State.resetWith p).raise (.loadOverflow image.length) := State.hostLoad_of_gt _ h
  rw [hl]
  exact ⟨rfl, step_of_faulted rfl⟩

/-- Settles O59. -/
theorem placedWordIsFetched : Obligations.PlacedWordIsFetched := fun s _ w hn =>
  ⟨rfl, s.placeWord_fetchWord _, decodeTableWord_of_le hn w, fun hpc => if_pos (Nat.succ_le_of_lt hpc),
    fun _ h0 h1 => s.placeWord_readByte_off _ h0 h1, rfl⟩

end Sys2Proof.Proofs
end
